-- ==== Sys2Proof/Word.lean ====
section
/-! DEFINITION. The byte, the one bit-vector width of this hardware's data (`00_scope.md` R9). -/

namespace Sys2Proof

/-- A byte: 8 bits, bit 7 the most significant (R9). -/
abbrev Byte := BitVec 8

end Sys2Proof
end

