-- ==== Sys2Proof/Config.lean ====
section
/-! DEFINITION. The configuration record of `00_scope.md` R6, its well-formedness (R7), the character constants of
R8, and the configuration the block has at reset. -/

namespace Sys2Proof

/-- The parameters of R6 that a model keeps as fields; the four structural numbers R7 lets a model hard-wire stand below
as constants. -/
structure Config where
  /-- `HREP_HIGH`: device dot-columns of one source column, High mode. -/
  hrepHigh : Nat
  /-- `LIMIT_LOW`: device dot-column limit, Low mode. -/
  limitLow : Nat
  /-- `LIMIT_HIGH`: device dot-column limit, High mode. -/
  limitHigh : Nat
  /-- `DEVICE_WIDTH`: printable page width in device dot-columns. -/
  deviceWidth : Nat
  /-- `PAD_UNIT`: device dot-columns of one padding space. -/
  padUnit : Nat
  /-- `BUF_BYTES`: size of the band buffer. -/
  bufBytes : Nat
  /-- `DIM_BITS`: width of the dimensions. -/
  dimBits : Nat
  /-- `FRAME_MAX`: most parameter bytes of a host frame. -/
  frameMax : Nat
  densityLow : Byte
  densityHigh : Byte
  pitchLow : Byte
  pitchHigh : Byte
  esc : Byte
  gs : Byte
  cr : Byte
  lf : Byte
  sp : Byte
  nul : Byte
  buzzerCode : Byte
  chsizeCode : Byte
  fontCode : Byte
  dblprintCode : Byte
  emphCode : Byte
  mirrorCode : Byte
  rotateCode : Byte
  inverseCode : Byte
  deriving DecidableEq, Repr

namespace Config

/-! The four structural numbers of R6 that R7 lets a model hard-wire (log entry 23). -/

/-- `ROWH_LOW`. -/
def rowhLow : Nat := 8
/-- `ROWH_HIGH`. -/
def rowhHigh : Nat := 24
/-- `BPC`: buffer bytes per source column. -/
def bpc : Nat := 3
/-- `HREP_LOW`. -/
def hrepLow : Nat := 3

/-! The quoted characters of R8. PRESUMED (ASCII, `93_implementation_defined.md` G4; log entry 22). -/

/-- `'*'` -/
def chStar : Byte := 0x2A
/-- `'-'` -/
def chMinus : Byte := 0x2D
/-- `'0'` -/
def ch0 : Byte := 0x30
/-- `'1'` -/
def ch1 : Byte := 0x31
/-- `'2'` -/
def ch2 : Byte := 0x32
/-- `'3'` -/
def ch3 : Byte := 0x33
/-- `'H'` -/
def chUpperH : Byte := 0x48
/-- `'V'` -/
def chUpperV : Byte := 0x56
/-- `'h'` -/
def chLowerH : Byte := 0x68
/-- `'k'` -/
def chLowerK : Byte := 0x6B
/-- `'w'` -/
def chLowerW : Byte := 0x77

/-- R7: a configuration is well formed. The equalities of the four hard-wired numbers hold of the constants above, the byte
ranges of the type; `FRAME_MAX` is at least 1 by R6. -/
def wf (c : Config) : Bool :=
  decide (c.limitLow ≤ c.deviceWidth) && decide (c.limitHigh ≤ c.deviceWidth) && decide (1 ≤ c.padUnit) &&
    decide (c.hrepHigh = 1) && decide (c.limitLow ≤ c.bufBytes) && decide (bpc * c.limitHigh ≤ c.bufBytes) && decide (c.frameMax ≠ 0)

/-- The code bytes the prefix `ESC` selects between (R104). -/
def escCodes (c : Config) : List Byte :=
  [ch3, ch2, chStar, chMinus, c.buzzerCode, c.fontCode, c.dblprintCode, c.emphCode, c.mirrorCode, c.rotateCode]

/-- The code bytes the prefix `GS` selects between (R104). -/
def gsCodes (c : Config) : List Byte :=
  [chUpperV, chLowerW, chLowerH, chUpperH, chLowerK, c.chsizeCode, c.inverseCode]

/-- R106: the condition under which reading a stream back is a function: within each prefix the code bytes are pairwise
distinct and the two densities differ. That `ESC`, `GS`, `SP` and `CR` are told apart and the payload's terminator is the
0x00 of R98 is the same condition for the control characters, which R6 makes parameters (log entry 8). -/
def parseable (c : Config) : Bool :=
  decide (c.escCodes.Nodup) && decide (c.gsCodes.Nodup) && decide (c.densityLow ≠ c.densityHigh) &&
    decide ([c.esc, c.gs, c.sp, c.cr].Nodup) && decide (c.nul = 0)

/-! The OPEN parameters that have no reference value (decisions D17, D29): constants without a body (log entry 7). -/

/-- `BUZZER_CODE` of this device. -/
opaque deviceBuzzerCode : Byte
/-- `CHSIZE_CODE` of this device. -/
opaque deviceChsizeCode : Byte
/-- `FONT_CODE` of this device. -/
opaque deviceFontCode : Byte
/-- `DBLPRINT_CODE` of this device. -/
opaque deviceDblprintCode : Byte
/-- `EMPH_CODE` of this device. -/
opaque deviceEmphCode : Byte
/-- `MIRROR_CODE` of this device. -/
opaque deviceMirrorCode : Byte
/-- `ROTATE_CODE` of this device. -/
opaque deviceRotateCode : Byte
/-- `INVERSE_CODE` of this device. -/
opaque deviceInverseCode : Byte
/-- `FRAME_MAX` of this device less 1 (it is at least 1, R6). -/
opaque deviceFrameMaxLess1 : Nat

/-- The configuration after reset: the source's values, the reference values of R6 where it gives one (PRESUMED, log
entry 6), the bodiless constants where it gives none. No statement rests on a value of it: statements quantify over
the configuration that State holds. -/
def device : Config where
  hrepHigh := 1
  limitLow := 192
  limitHigh := 576
  deviceWidth := 576
  padUnit := 12
  bufBytes := 1728
  dimBits := 16
  frameMax := deviceFrameMaxLess1 + 1
  densityLow := 1
  densityHigh := 33
  pitchLow := 24
  pitchHigh := 24
  esc := 0x1B
  gs := 0x1D
  cr := 0x0D
  lf := 0x0A
  sp := 0x20
  nul := 0x00
  buzzerCode := deviceBuzzerCode
  chsizeCode := deviceChsizeCode
  fontCode := deviceFontCode
  dblprintCode := deviceDblprintCode
  emphCode := deviceEmphCode
  mirrorCode := deviceMirrorCode
  rotateCode := deviceRotateCode
  inverseCode := deviceInverseCode

end Config

end Sys2Proof
end

