-- ==== Sys2Proof/Syntax.lean ====
section
/-! DEFINITION. The instructions: one constructor for each of the twenty rows of `spec/opcode_table.json`; the form in
which a request stands on the request lines; the reasons a request cannot be read. -/

namespace Sys2Proof

/-- The prefix selector of a frame (R93): 0 selects `ESC`, 1 selects `GS`; there is no other. -/
inductive Pfx where
  /-- selector 0 -/
  | esc
  /-- selector 1 -/
  | gs
  deriving DecidableEq, Repr

/-- The instructions of MRE (R2): the two host operations, the sixteen named requests (R110), and the two emissions that
only a conversion issues. The order is that of the opcode table. -/
inductive Instr where
  /-- `ENCODE res_sel, just_sel` (R202). -/
  | encode (resSel justSel : Byte)
  /-- `FRAME pfx, code, par, zt` (R231); `npar` is the length of `par`. -/
  | frame (pfx : Pfx) (code : Byte) (par : List Byte) (zt : Bool)
  /-- `LSP n` (R240). -/
  | lsp (n : Byte)
  /-- `LSPD` (R241). -/
  | lspd
  /-- `BIMG` (R242): density, column count, band bytes. -/
  | bimg (m : Byte) (cols : BitVec 16) (d : List Byte)
  /-- `BUZZ` (R243). -/
  | buzz
  /-- `PCUT` (R244). -/
  | pcut
  /-- `UL m` (R245). -/
  | ul (m : Byte)
  /-- `CHSZ hmag, vmag` (R246). -/
  | chsz (hmag vmag : Nat)
  /-- `FONT m` (R247). -/
  | font (m : Byte)
  /-- `DBLP m` (R248). -/
  | dblp (m : Byte)
  /-- `EMPH m` (R249). -/
  | emph (m : Byte)
  /-- `INV m` (R250). -/
  | inv (m : Byte)
  /-- `MIRR m` (R251). -/
  | mirr (m : Byte)
  /-- `ROT m` (R252). -/
  | rot (m : Byte)
  /-- `BCW v` (R253). -/
  | bcw (v : Byte)
  /-- `BCH v` (R254). -/
  | bch (v : Byte)
  /-- `BCTP v` (R255). -/
  | bctp (v : Byte)
  /-- `BCODE m, s` (R256). -/
  | bcode (m : Byte) (s : List Byte)
  /-- `PADRUN` (R209): `pad` spaces. -/
  | padrun (pad : Nat)
  deriving DecidableEq, Repr

/-- What stands on the request lines (R90, R109; DESIGN CHOICE, log entry 9: the spec gives a request no bits). -/
inductive Request where
  /-- The `ENCODE` record. -/
  | encodeRec (resSel justSel : Byte)
  /-- The `FRAME` record. -/
  | frameRec (pfx : Pfx) (code : Byte) (par : List Byte) (zt : Bool)
  /-- A named request (R109, R110), given by its name and operands: any operands, admissible or not. -/
  | named (i : Instr)
  /-- A named request, given by the wire bytes of the frame it asks for (R104), as a word of the opcode table gives it. What
  it names is what R106 reads from the bytes. -/
  | wire (bytes : List Byte)
  deriving DecidableEq, Repr

/-- Why bytes are read as no instruction of the wire layer. -/
inductive DecodeError where
  /-- There is no byte. -/
  | empty
  /-- The first byte is neither `ESC`, `GS` nor `SP` (R106). -/
  | noPrefixByte
  /-- The bytes end before the frame does. -/
  | truncated
  /-- The code byte is none of R104's for the frame's first byte. -/
  | unknownCode
  /-- `GS 'V'` with a parameter other than 0x01 (R244). -/
  | cutParameter
  /-- A bit-image density that is neither `DENSITY_LOW` nor `DENSITY_HIGH` (R106, R108). -/
  | unknownDensity
  /-- A barcode payload with no terminator (R98). -/
  | noTerminator
  /-- Bytes follow the instruction. -/
  | trailingBytes
  deriving DecidableEq, Repr

end Sys2Proof
end

