-- ==== Sys2Proof/WellFormed.lean ====
section
/-! DEFINITION. Which operands an instruction admits (R107, R108, R245, R246, R259, R157), under a configuration. -/

namespace Sys2Proof

/-- The domain of `UL` (R245, R103): the ASCII digits 0, 1, 2. -/
def underlineDomain (m : Byte) : Bool := decide (m = Config.ch0 ∨ m = Config.ch1 ∨ m = Config.ch2)

/-- The domain of each operand of `CHSZ` (R246, R102): 1 to 16. -/
def magDomain (n : Nat) : Bool := decide (1 ≤ n) && decide (n ≤ 16)

/-- The domain of a barcode payload byte (R259): 0x01 to 0x7F. -/
def payloadByte (b : Byte) : Bool := decide (1 ≤ b.toNat) && decide (b.toNat ≤ 0x7F)

/-- Bytes of band data for one counted dot-column (R99, R106): 1 at the Low density, 3 at the High one. Where a configuration
gives both the same value R106's parse is no function, and 1 is taken (DESIGN CHOICE, log entry 8). -/
def bytesPerColumn (c : Config) (m : Byte) : Option Nat :=
  if m = c.densityLow then some 1 else if m = c.densityHigh then some 3 else none

/-- An instruction is well formed under a configuration: every operand is one the spec gives a meaning. An invalid
selector of `ENCODE` is a defined case (U8), so every selector is admitted. -/
def Instr.wellFormed (c : Config) : Instr → Bool
  | .encode _ _ => true
  | .frame _ _ par _ => decide (par.length ≤ c.frameMax)
  | .lsp _ => true
  | .lspd => true
  | .bimg m cols d =>
    decide (1 ≤ cols.toNat) && decide (cols.toNat ≤ max c.limitLow c.limitHigh) &&
      decide ((bytesPerColumn c m).map (cols.toNat * ·) = some d.length)
  | .buzz => true
  | .pcut => true
  | .ul m => underlineDomain m
  | .chsz hmag vmag => magDomain hmag && magDomain vmag
  | .font _ => true
  | .dblp _ => true
  | .emph _ => true
  | .inv _ => true
  | .mirr _ => true
  | .rot _ => true
  | .bcw _ => true
  | .bch _ => true
  | .bctp _ => true
  | .bcode _ s => s.all payloadByte && decide (1 + s.length ≤ c.frameMax)
  | .padrun pad => decide (pad ≤ c.deviceWidth / c.padUnit)

end Sys2Proof
end

