-- ==== Sys2Proof/Decode.lean ====
section
/-! DEFINITION. Reading an instruction from bytes by the parse rules of `30_encoding.md` R106, and, after it, writing
one by the table of R104. Where code bytes, densities or control
characters of the configuration coincide, R106's parse is no function, and the first case tested wins (DESIGN CHOICE, log
entry 8). -/

namespace Sys2Proof

/-- The rest of an `F3` frame (R97): one parameter byte. -/
def decodeF3 (mk : Byte → Instr) : List Byte → Except DecodeError (Instr × List Byte)
  | [] => .error .truncated
  | p :: rest => .ok (mk p, rest)

/-- `PCUT` (R244) has the constant parameter 0x01. `GS 'V'` with another parameter, which `FRAME` can emit, is an `F3` frame by
its code and no row of R104 by its parameter: it is rejected (DESIGN CHOICE, log entry 30). -/
def decodeCut : List Byte → Except DecodeError (Instr × List Byte)
  | [] => .error .truncated
  | p :: rest => if p = 0x01 then .ok (.pcut, rest) else .error .cutParameter

/-- The operands of `CHSZ` from its parameter byte (R102): bits 7..4 and 3..0, each plus 1. -/
def decodeChsz (p : Byte) : Instr := .chsz ((p >>> 4).toNat + 1) ((p &&& 0x0F).toNat + 1)

/-- The payload of an `FZ` frame: the bytes before the first terminator (R98, R106). -/
def splitAtNul (nul : Byte) : List Byte → Option (List Byte × List Byte)
  | [] => none
  | b :: t => if b = nul then some ([], t) else (splitAtNul nul t).map fun (s, rest) => (b :: s, rest)

/-- The rest of `BCODE` (R98): mode, payload, terminator. -/
def decodeBcode (c : Config) : List Byte → Except DecodeError (Instr × List Byte)
  | [] => .error .truncated
  | m :: t =>
    match splitAtNul c.nul t with
    | none => .error .noTerminator
    | some (s, rest) => .ok (.bcode m s, rest)

/-- The first `n` bytes and the rest, or none where there are fewer. -/
def splitAtExactly : Nat → List Byte → Option (List Byte × List Byte)
  | 0, l => some ([], l)
  | _ + 1, [] => none
  | n + 1, b :: t => (splitAtExactly n t).map fun (d, rest) => (b :: d, rest)

/-- The rest of `BIMG` (R99, R106): density, column count low byte first (R65), and `c * d` data bytes. -/
def decodeBimg (c : Config) : List Byte → Except DecodeError (Instr × List Byte)
  | m :: nL :: nH :: t =>
    match bytesPerColumn c m with
    | none => .error .unknownDensity
    | some d =>
      let cols : BitVec 16 := nH ++ nL
      match splitAtExactly (cols.toNat * d) t with
      | none => .error .truncated
      | some (data, rest) => .ok (.bimg m cols data, rest)
  | _ => .error .truncated

/-- A frame whose first byte is `ESC`, from its code byte on (R104 rows 1 to 4, 6, 8 to 10, 12, 13). -/
def decodeEsc (c : Config) (code : Byte) (t : List Byte) : Except DecodeError (Instr × List Byte) :=
  if code = Config.ch3 then decodeF3 .lsp t
  else if code = Config.ch2 then .ok (.lspd, t)
  else if code = Config.chStar then decodeBimg c t
  else if code = Config.chMinus then decodeF3 .ul t
  else if code = c.buzzerCode then .ok (.buzz, t)
  else if code = c.fontCode then decodeF3 .font t
  else if code = c.dblprintCode then decodeF3 .dblp t
  else if code = c.emphCode then decodeF3 .emph t
  else if code = c.mirrorCode then decodeF3 .mirr t
  else if code = c.rotateCode then decodeF3 .rot t
  else .error .unknownCode

/-- A frame whose first byte is `GS`, from its code byte on (R104 rows 5, 7, 11, 14 to 17). -/
def decodeGs (c : Config) (code : Byte) (t : List Byte) : Except DecodeError (Instr × List Byte) :=
  if code = Config.chUpperV then decodeCut t
  else if code = Config.chLowerW then decodeF3 .bcw t
  else if code = Config.chLowerH then decodeF3 .bch t
  else if code = Config.chUpperH then decodeF3 .bctp t
  else if code = Config.chLowerK then decodeBcode c t
  else if code = c.chsizeCode then decodeF3 decodeChsz t
  else if code = c.inverseCode then decodeF3 .inv t
  else .error .unknownCode

/-- How many padding units stand at the head (R101, R106), and what follows them. -/
def takePadding (sp : Byte) : List Byte → Nat × List Byte
  | [] => (0, [])
  | b :: t => if b = sp then ((takePadding sp t).1 + 1, (takePadding sp t).2) else (0, b :: t)

/-- R106: the instruction at the head of a byte list, and the bytes after it. Total; what is no frame and no padding is
rejected by name. The first byte is compared with `SP`, then `ESC`, then `GS`, which matters only where two of them coincide
(DESIGN CHOICE, log entry 8). -/
def decodeWire (c : Config) : List Byte → Except DecodeError (Instr × List Byte)
  | [] => .error .empty
  | b :: t =>
    if b = c.sp then .ok (.padrun ((takePadding c.sp t).1 + 1), (takePadding c.sp t).2)
    else if b = c.esc then
      match t with
      | [] => .error .truncated
      | code :: t' => decodeEsc c code t'
    else if b = c.gs then
      match t with
      | [] => .error .truncated
      | code :: t' => decodeGs c code t'
    else .error .noPrefixByte

/-- The instruction of a request (R90, R109, R110): a record or a name is the operation it names, and bytes are read by
`decodeWire` and must be one instruction whole. -/
def decode (c : Config) : Request → Except DecodeError Instr
  | .encodeRec r j => .ok (.encode r j)
  | .frameRec pfx code par zt => .ok (.frame pfx code par zt)
  | .named i => .ok i
  | .wire bs =>
    match decodeWire c bs with
    | .error e => .error e
    | .ok (i, []) => .ok i
    | .ok (_, _ :: _) => .error .trailingBytes

/-- One item of an emitted stream (R106): an instruction of the wire layer, or a trailer. -/
inductive StreamItem where
  | instr (i : Instr)
  /-- `CR LF` outside a frame (R100). -/
  | trailer
  deriving DecidableEq, Repr

/-- The item at the head of a stream: `CR LF`, or an instruction. The trailer is tried first, which matters only where `CR` is
also `SP`, `ESC` or `GS` (DESIGN CHOICE, log entry 8). -/
def headItem (c : Config) (bs : List Byte) : Except DecodeError (StreamItem × List Byte) :=
  if bs.take 2 = [c.cr, c.lf] then .ok (.trailer, bs.drop 2)
  else
    match decodeWire c bs with
    | .error e => .error e
    | .ok (i, rest) => .ok (.instr i, rest)

/-- R106: an emitted stream read left to right, on fuel (its length suffices: every item takes a byte). -/
def parseStreamFuel (c : Config) : Nat → List Byte → Except DecodeError (List StreamItem)
  | _, [] => .ok []
  | 0, _ :: _ => .error .truncated
  | n + 1, b :: t =>
    match headItem c (b :: t) with
    | .error e => .error e
    | .ok (item, rest) => (parseStreamFuel c n rest).map (item :: ·)

/-- R106: the items of an emitted stream. -/
def parseStream (c : Config) (bs : List Byte) : Except DecodeError (List StreamItem) :=
  parseStreamFuel c bs.length bs

/-! ## The encoder -/

/-- The byte a prefix selector selects (R93, R232). -/
def Pfx.byte (c : Config) : Pfx → Byte
  | .esc => c.esc
  | .gs => c.gs

/-- The parameter byte of `CHSZ` (R102). -/
def chszParam (hmag vmag : Nat) : Byte := (BitVec.ofNat 8 (hmag - 1) <<< 4) ||| BitVec.ofNat 8 (vmag - 1)

/-- Low byte of a column count (R94). -/
def lowByte (cols : BitVec 16) : Byte := cols.extractLsb' 0 8

/-- High byte of a column count (R94). -/
def highByte (cols : BitVec 16) : Byte := cols.extractLsb' 8 8

/-- The wire bytes of an instruction in stream order, row by row of R104; `ENCODE` has none of its own, and those of
`FRAME` are R93's. -/
def wireBytes (c : Config) : Instr → List Byte
  | .encode _ _ => []
  | .frame pfx code par zt => [pfx.byte c, code] ++ par ++ (if zt then [c.nul] else [])
  | .lsp n => [c.esc, Config.ch3, n]
  | .lspd => [c.esc, Config.ch2]
  | .bimg m cols d => [c.esc, Config.chStar, m, lowByte cols, highByte cols] ++ d
  | .buzz => [c.esc, c.buzzerCode]
  | .pcut => [c.gs, Config.chUpperV, 0x01]
  | .ul m => [c.esc, Config.chMinus, m]
  | .chsz hmag vmag => [c.gs, c.chsizeCode, chszParam hmag vmag]
  | .font m => [c.esc, c.fontCode, m]
  | .dblp m => [c.esc, c.dblprintCode, m]
  | .emph m => [c.esc, c.emphCode, m]
  | .inv m => [c.gs, c.inverseCode, m]
  | .mirr m => [c.esc, c.mirrorCode, m]
  | .rot m => [c.esc, c.rotateCode, m]
  | .bcw v => [c.gs, Config.chLowerW, v]
  | .bch v => [c.gs, Config.chLowerH, v]
  | .bctp v => [c.gs, Config.chUpperH, v]
  | .bcode m s => [c.gs, Config.chLowerK, m] ++ s ++ [c.nul]
  | .padrun pad => List.replicate pad c.sp

/-- The request that asks for a well-formed instruction (R90, R110), a named request by its wire bytes. Operands that are
not admitted may have no wire bytes of their own (the parameter byte of R102 cannot hold an operand of `CHSZ` outside 1 to
16): a request with such operands is presented by name, `Request.named` (DESIGN CHOICE, log entry 9). -/
def encode (c : Config) : Instr → Request
  | .encode r j => .encodeRec r j
  | .frame pfx code par zt => .frameRec pfx code par zt
  | i => .wire (wireBytes c i)

/-! ## Words of the opcode table -/

/-- The bytes of a word as R111 numbers it: byte 0 of the stream is the most significant byte of the word (log entry
10). -/
def wordBytes (nbits w : Nat) : List Byte :=
  (List.range (nbits / 8)).map fun j => BitVec.ofNat 8 (w >>> (nbits - 8 * (j + 1)))

/-- A table word followed by zero bytes: as many as `BIMG` can have data bytes under the reference configuration where the
word holds `BIMG`'s five head bytes, else as many as any other instruction can still need. -/
def tableBytes (nbits w : Nat) : List Byte :=
  wordBytes nbits w ++ List.replicate (if 40 ≤ nbits then 1728 else 8) 0

/-- The instruction at the head of a table word followed by zeros, and the bytes it takes up. -/
def decodeTable (c : Config) (nbits w : Nat) : Option (Instr × List Byte) :=
  match decodeWire c (tableBytes nbits w) with
  | .ok (i, rest) => some (i, (tableBytes nbits w).take ((tableBytes nbits w).length - rest.length))
  | .error _ => none

/-- The instruction the decoder reads from a table word under the configuration the block has at reset. -/
def decodeTableWord (nbits w : Nat) : Option Instr := (decodeTable Config.device nbits w).map Prod.fst

end Sys2Proof
end

