-- ==== Sys2Proof/Machine/State.lean ====
section
/-! DEFINITION. The state of MRE (`10_state.md` R20 to R36), the inputs of its step, the reasons a step can stop, and the
state after reset (R35, R320). Plain data throughout. -/

namespace Sys2Proof.Machine

/-- The sequencer register `PHASE` (R26). -/
inductive Phase where
  | idle
  | check
  | setup
  | fill
  | repl
  | padout
  | hdr
  | data
  | trail
  | restore
  | frame
  | done
  | err
  deriving DecidableEq, Repr

/-- The four error kinds (R280). -/
inductive ErrorKind where
  | formatError
  | unsupportedModeError
  | sizeLimitError
  | ioError
  deriving DecidableEq, Repr

/-- The frame descriptor latch `FD` (R25, R93); `npar` is the length of `par`. -/
structure FrameDesc where
  pfx : Pfx
  code : Byte
  par : List Byte
  zt : Bool
  deriving DecidableEq, Repr

/-- The answers of `SrcHdr` (R11, R131). -/
inductive HdrAnswer where
  | hdr (w h : Nat)
  /-- `hdr_err(FormatError)` -/
  | formatErr
  /-- `hdr_err(IOError)` -/
  | ioErr
  deriving DecidableEq, Repr

/-- The answers of `SrcNext` (R11, R132). -/
inductive PxAnswer where
  /-- `px(1)` (set) or `px(0)` (clear) -/
  | px (p : Bool)
  | eof
  | srcFail
  deriving DecidableEq, Repr

/-- The answers of `ChPut` (R11). -/
inductive ChAnswer where
  | ok
  | chFail
  deriving DecidableEq, Repr

/-- The contents of `BUF`: (address, byte) pairs in canonical form (see `Memory.wf`). An address that is not listed
holds no value. -/
abbrev Memory := List Host.Cell

/-- The state: the registers of MRE, its buffer, the history of R36, the inputs of the step (R21), and the
configuration, which no step writes. -/
structure State where
  /-- The configuration record (R6). -/
  cfg : Config
  /-- `PHASE` (R26). -/
  phase : Phase
  /-- `RES` (R22). -/
  res : Byte
  /-- `JUST` (R22). -/
  just : Byte
  /-- `W` (R22). -/
  w : Nat
  /-- `H` (R22). -/
  h : Nat
  /-- `ROWH` (R23). -/
  rowh : Nat
  /-- `COLS` (R23). -/
  cols : Nat
  /-- `NBYTES` (R23). -/
  nbytes : Nat
  /-- `PAD` (R23). -/
  pad : Nat
  /-- `DENS` (R23). -/
  dens : Byte
  /-- `PITCH` (R23). -/
  pitch : Byte
  /-- `Y` (R24). -/
  y : Nat
  /-- `I` (R24). -/
  i : Nat
  /-- `X` (R24). -/
  x : Nat
  /-- `K` (R24). -/
  k : Nat
  /-- `FD` (R25). -/
  fd : FrameDesc
  /-- `ERRCODE` (R28). -/
  errcode : BitVec 3
  /-- `ERRLOG` (R28). -/
  errlog : BitVec 4
  /-- `BUF` (R30). -/
  buf : Memory
  /-- History: `OUT` (R36). -/
  out : List Byte
  /-- History: `NPX` (R36). -/
  npx : Nat
  /-- Input: the reset wire (R320). -/
  rst : Bool
  /-- Input: the requests the host issues one after the other (R109); the head is the one presented (R90). -/
  reqs : List Request
  /-- Input: the coming answers of `SrcHdr` (R11). -/
  hdrAns : List HdrAnswer
  /-- Input: the coming answers of `SrcNext` (R11). -/
  pxAns : List PxAnswer
  /-- Input: the coming answers of `ChPut` (R11). -/
  chAns : List ChAnswer
  /-- The bytes the printer has received over `CH` (R68). -/
  ch : List Byte
  deriving DecidableEq, Repr

/-- Why the machine stops with a fault. All are safe: no claim about a next state follows from one. -/
inductive Fault where
  /-- An access to `BUF` at an index that is not below `BUF_BYTES` (R64). Raised by `memRead`, `memWrite` and `BIMG`'s
  data step, only under an ill-formed configuration or in a state no run reaches. Safe. -/
  | bufIndexOutOfRange
  /-- A read of a byte of `BUF` that nothing has written since reset (R35). Raised by `memRead` and `BIMG`'s data
  step, only in a state no run from reset reaches (R321). Safe. -/
  | bufUnwritten
  /-- `K` is past the end of the frame being emitted, where the spec names no byte. Raised by `emitByte`, only in a state
  no run reaches (R26). Safe. -/
  | counterOutOfRange
  deriving DecidableEq, Repr

/-- Why the model gives a step no meaning. All are safe: no claim about a next state follows from one. -/
inductive Refusal where
  /-- An instruction with no meaning in this model yet, by its mnemonic; raised in `exec`'s arm only. Safe. -/
  | notModelled (mnemonic : String)
  /-- The configuration violates R7 (U15). Raised when a request is accepted. Safe. -/
  | illFormedConfig
  /-- A `FRAME` request with `npar > FRAME_MAX` (R107, U6). Raised by `FRAME`. Safe. -/
  | frameTooLong
  /-- `UL` with a mode that is none of the three digits (R245, U7). Raised by `UL`. Safe. -/
  | underlineDomain
  /-- `CHSZ` with an operand outside 1 to 16 (R246, U7). Raised by `CHSZ`. Safe. -/
  | magnificationDomain
  /-- `BCODE` with a payload byte outside 0x01 to 0x7F, or one that does not fit `FRAME_MAX` (R259, U7). Raised by
  `BCODE`. Safe. -/
  | payloadDomain
  /-- `h >= 2^DIM_BITS` when every other check has passed (R155, U5). Raised by the `CHECK` step. Safe. -/
  | heightNotRepresentable
  /-- `BIMG` or `PADRUN` where no conversion issues it: "`BIMG` and `PADRUN` have no request form" (R110). Raised by
  these two. Safe. -/
  | noRequestForm
  /-- The bytes of a named request are no instruction (R106). Raised by the step that would accept them. Safe. -/
  | undecodable (e : DecodeError)
  deriving DecidableEq, Repr

/-- What a step answers. -/
abbrev Result := Host.Outcome State Fault Refusal

/-- The descriptor `FD` holds after reset. DESIGN CHOICE (log entry 3): the spec gives none. -/
def FrameDesc.reset : FrameDesc := ⟨.esc, 0, [], false⟩

/-- The state after reset (R35, R320): `PHASE` = `IDLE`, `ERRCODE` = 0, `ERRLOG` = 0, `BUF` without a value, the history
empty. Every register the spec calls unspecified holds 0, DESIGN CHOICE (log entry 3). No input is pending. -/
def State.reset : State where
  cfg := Config.device
  phase := .idle
  res := 0
  just := 0
  w := 0
  h := 0
  rowh := 0
  cols := 0
  nbytes := 0
  pad := 0
  dens := 0
  pitch := 0
  y := 0
  i := 0
  x := 0
  k := 0
  fd := .reset
  errcode := 0
  errlog := 0
  buf := []
  out := []
  npx := 0
  rst := false
  reqs := []
  hdrAns := []
  pxAns := []
  chAns := []
  ch := []

end Sys2Proof.Machine
end

