-- ==== Sys2Proof/Machine/Flags.lean ====
section
/-! DEFINITION. The status registers (`10_state.md` R28): `BUSY`, `ERRCODE`, `ERRLOG`. MRE has no other flag. -/

namespace Sys2Proof.Machine

/-- `BUSY` is 0 (R28): `PHASE` is one of `IDLE`, `DONE`, `ERR`. -/
def Phase.quiescent : Phase → Bool
  | .idle => true
  | .check => false
  | .setup => false
  | .fill => false
  | .repl => false
  | .padout => false
  | .hdr => false
  | .data => false
  | .trail => false
  | .restore => false
  | .frame => false
  | .done => true
  | .err => true

/-- `BUSY` (R28). -/
def State.busy (s : State) : Bool := !s.phase.quiescent

/-- The code of an error kind (R280). -/
def ErrorKind.code : ErrorKind → BitVec 3
  | .formatError => 1
  | .unsupportedModeError => 2
  | .sizeLimitError => 3
  | .ioError => 4

/-- The bit of `ERRLOG` of an error kind (R28, R284): bit `k-1` for code `k`. -/
def ErrorKind.logBit (e : ErrorKind) : BitVec 4 := (1 : BitVec 4) <<< (e.code.toNat - 1)

/-- The status word the host reads at any time (R28). -/
structure Status where
  busy : Bool
  errcode : BitVec 3
  errlog : BitVec 4
  deriving DecidableEq, Repr

/-- `STAT` (R28). -/
def State.status (s : State) : Status := ⟨s.busy, s.errcode, s.errlog⟩

/-- An operation is over (R27). -/
def State.over (s : State) : Bool := decide (s.phase = .done ∨ s.phase = .err)

/-- An operation ended in success: `DONE` is the only such end (R27). -/
def State.success (s : State) : Bool := decide (s.phase = .done)

end Sys2Proof.Machine
end

