-- ==== Sys2Proof/Machine/Memory.lean ====
section
/-! DEFINITION. The band buffer `BUF` (`20_memory.md` R60 to R64) as a canonical list of cells. -/

namespace Sys2Proof.Machine

/-- What an address that is not listed reads as: no value (R35, R320; log entry 4). -/
def Memory.unlisted : Option Byte := none

/-- The canonical form: addresses strictly rising. (No entry can equal what an unlisted address reads as, which is no
value.) -/
abbrev Memory.wf (m : Memory) : Prop := m.Pairwise fun a b => a.1 < b.1

/-- The byte at an address. -/
def Memory.read : Memory → Nat → Option Byte
  | [], _ => Memory.unlisted
  | (b, v) :: m, a => if a = b then some v else Memory.read m a

/-- Write the byte at an address, in place in the rising order. -/
def Memory.write : Memory → Nat → Byte → Memory
  | [], a, v => [(a, v)]
  | (b, u) :: m, a, v =>
    if a < b then (a, v) :: (b, u) :: m
    else if a = b then (a, v) :: m
    else (b, u) :: Memory.write m a v

/-- The cells `start .. start + n - 1`, all zero. -/
def Memory.zeros (start : Nat) : Nat → Memory
  | 0 => []
  | n + 1 => (start, 0) :: Memory.zeros (start + 1) n

/-- Write zero to the addresses below `n` (R33, R183, U2 let a model do this at the start of each band; log entry 5). -/
def Memory.clearBelow (m : Memory) (n : Nat) : Memory :=
  Memory.zeros 0 n ++ m.filter fun e => decide (n ≤ e.1)

/-- `MemRead(k, 1)` (R10, R63): an index outside `BUF` faults (R64), a byte nothing has written faults (R35). -/
def memRead (s : State) (a : Nat) : Except Fault Byte :=
  if a < s.cfg.bufBytes then
    match s.buf.read a with
    | some v => .ok v
    | none => .error .bufUnwritten
  else .error .bufIndexOutOfRange

/-- `MemWrite(k, 1, v)` (R10, R63): an index outside `BUF` faults, it neither wraps nor is ignored (R64). -/
def memWrite (s : State) (a : Nat) (v : Byte) : Except Fault State :=
  if a < s.cfg.bufBytes then .ok { s with buf := s.buf.write a v } else .error .bufIndexOutOfRange

/-- The bytes from `a` on, `n` of them, as far as each can be read. -/
def readRun (s : State) (a : Nat) : Nat → List Byte
  | 0 => []
  | n + 1 =>
    match memRead s a with
    | .ok v => v :: readRun s (a + 1) n
    | .error _ => []

/-- `BUF[0..NBYTES-1]`, the bytes of the band (R30), as far as each can be read (log entry 28). -/
def bandBytes (s : State) : List Byte := readRun s 0 s.nbytes

end Sys2Proof.Machine
end

