-- ==== Sys2Proof/Machine/Operands.lean ====
section
/-! DEFINITION. The values computed from operands: derived widths and checks (`41_precheck_justify.md`), tiler addresses
and masks (`20_memory.md` R62), and the byte lists of the frames (`30_encoding.md` R95 to R101). -/

namespace Sys2Proof.Machine

/-! ## Request operands -/

/-- `CHK_RES` passes (R151, R91). -/
def validRes (res : Byte) : Bool := decide (res = 0 ∨ res = 1)

/-- `CHK_JUST` passes (R152, R91). -/
def validJust (just : Byte) : Bool := decide (just = 0 ∨ just = 1 ∨ just = 2)

/-- `IDW` (R150). -/
def idw (c : Config) (res : Byte) (w : Nat) : Nat := if res = 0 then w * Config.hrepLow else w * c.hrepHigh

/-- `LIMIT(RES)` (R153). -/
def limitOf (c : Config) (res : Byte) : Nat := if res = 0 then c.limitLow else c.limitHigh

/-- `ROWSEL` (R170). -/
def rowhOf (res : Byte) : Nat := if res = 0 then Config.rowhLow else Config.rowhHigh

/-- The density byte of a mode (R23). -/
def densOf (c : Config) (res : Byte) : Byte := if res = 0 then c.densityLow else c.densityHigh

/-- The line-spacing byte of a mode (R23). -/
def pitchOf (c : Config) (res : Byte) : Byte := if res = 0 then c.pitchLow else c.pitchHigh

/-- `JCALC` (R157): both divisions truncate. -/
def jcalc (c : Config) (just : Byte) (idw : Nat) : Nat :=
  if just = 0 then 0
  else if just = 1 then (c.deviceWidth - idw) / 2 / c.padUnit
  else (c.deviceWidth - idw) / c.padUnit

/-- What the START checks answer (R156). -/
inductive CheckResult where
  | pass
  | raises (e : ErrorKind)
  /-- `CHK_HFIT` failed: the image has no meaning (R155). -/
  | refuses
  deriving DecidableEq, Repr

/-- The START checks 2 to 6 in the order of R156. -/
def precheck (c : Config) (res just : Byte) (w h : Nat) : CheckResult :=
  if w = 0 ∨ h = 0 then .raises .formatError
  else if validRes res = false then .raises .unsupportedModeError
  else if validJust just = false then .raises .unsupportedModeError
  else if limitOf c res < idw c res w then .raises .sizeLimitError
  else if 2 ^ c.dimBits ≤ h then .refuses
  else .pass

/-! ## Tiler operands -/

/-- The effective address `A(x, i)` (R62). -/
def packAddr (x i : Nat) : Nat := x * Config.bpc + i / 8

/-- The bit mask `M(i)` (R62). -/
def packMask (i : Nat) : Byte := (0x80 : Byte) >>> (i % 8)

/-- The new value of the byte `PACK` touches (R176). -/
def packByte (old : Byte) (i : Nat) (p : Bool) : Byte :=
  (old &&& ~~~(packMask i)) ||| (if p then packMask i else 0)

/-! ## Frames -/

/-- The bytes of a frame descriptor (R93, R232). -/
def frameBytes (c : Config) (fd : FrameDesc) : List Byte :=
  [fd.pfx.byte c, fd.code] ++ fd.par ++ (if fd.zt then [c.nul] else [])

/-- The line-spacing frame (R240). -/
def lspBytes (c : Config) (n : Byte) : List Byte := [c.esc, Config.ch3, n]

/-- The default-line-spacing frame (R241). -/
def lspdBytes (c : Config) : List Byte := [c.esc, Config.ch2]

/-- The five header bytes of the bit-image frame (R99, R211). -/
def bimgHeader (c : Config) (m : Byte) (cols : BitVec 16) : List Byte :=
  [c.esc, Config.chStar, m, lowByte cols, highByte cols]

/-- The band trailer (R100). -/
def trailerBytes (c : Config) : List Byte := [c.cr, c.lf]

/-- The `FRAME` request a named request expands to (R110); none for the rows that are no named request. -/
def namedDescriptor (c : Config) : Instr → Option FrameDesc
  | .encode _ _ => none
  | .frame _ _ _ _ => none
  | .lsp n => some ⟨.esc, Config.ch3, [n], false⟩
  | .lspd => some ⟨.esc, Config.ch2, [], false⟩
  | .bimg _ _ _ => none
  | .buzz => some ⟨.esc, c.buzzerCode, [], false⟩
  | .pcut => some ⟨.gs, Config.chUpperV, [0x01], false⟩
  | .ul m => some ⟨.esc, Config.chMinus, [m], false⟩
  | .chsz hmag vmag => some ⟨.gs, c.chsizeCode, [chszParam hmag vmag], false⟩
  | .font m => some ⟨.esc, c.fontCode, [m], false⟩
  | .dblp m => some ⟨.esc, c.dblprintCode, [m], false⟩
  | .emph m => some ⟨.esc, c.emphCode, [m], false⟩
  | .inv m => some ⟨.gs, c.inverseCode, [m], false⟩
  | .mirr m => some ⟨.esc, c.mirrorCode, [m], false⟩
  | .rot m => some ⟨.esc, c.rotateCode, [m], false⟩
  | .bcw v => some ⟨.gs, Config.chLowerW, [v], false⟩
  | .bch v => some ⟨.gs, Config.chLowerH, [v], false⟩
  | .bctp v => some ⟨.gs, Config.chUpperH, [v], false⟩
  | .bcode m s => some ⟨.gs, Config.chLowerK, m :: s, true⟩
  | .padrun _ => none

/-- `npar <= FRAME_MAX` (R231), by recursion on the parameters. -/
def parFits : List Byte → Nat → Bool
  | [], _ => true
  | _ :: _, 0 => false
  | _ :: par, n + 1 => parFits par n

end Sys2Proof.Machine
end

