-- ==== Sys2Proof/Machine/Ops.lean ====
section
/-! DEFINITION. The operations the meanings share: raising an error and leaving it (`60_exceptions.md` R284, R292), the
interface transactions (`00_scope.md` R11), emitting a frame a byte a step, accepting a request, reset. -/

namespace Sys2Proof.Machine

/-! ## Errors -/

/-- `raise E` (R284): the code and the sticky bit are written, `PHASE` becomes `ERR`, nothing else changes. -/
def raise (e : ErrorKind) (s : State) : State :=
  { s with errcode := e.code, errlog := s.errlog ||| e.logBit, phase := .err }

/-- What the acceptance of any request does first (R202, R231): `ERRCODE` becomes 0 and the history is emptied. This is
the only return from `ERR` other than reset (R292). -/
def beginOperation (s : State) : State := { s with errcode := 0, out := [], npx := 0 }

/-- Reset as the wire applies it (R320, R322): registers, status and history as after reset; the configuration and what
belongs to other agents stay; the wire is released (log entry 15). -/
def applyReset (s : State) : State :=
  { State.reset with
    cfg := s.cfg, reqs := s.reqs, hdrAns := s.hdrAns, pxAns := s.pxAns, chAns := s.chAns, ch := s.ch, rst := false }

/-! ## Transactions -/

/-- A step that has no enabled rule: the state stays as it is (R341, R218; log entry 2). -/
def wait (s : State) : Result := .next s

/-- `ChPut(b)` and what follows it (R11, R68, R217): on `ok` the byte is appended to the stream and `cont` goes on, on
`ch_fail` it is not and `IOError` is raised, with no answer the step waits (R341). -/
def chPut (b : Byte) (cont : State → State) (s : State) : Result :=
  match s.chAns with
  | [] => wait s
  | .ok :: as => .next (cont { s with chAns := as, out := s.out ++ [b], ch := s.ch ++ [b] })
  | .chFail :: as => .next (raise .ioError { s with chAns := as })

/-- `SrcHdr()` and what follows it (R11, R131, R203): an error answer raises its kind, with no answer the step waits. -/
def srcHdr (cont : Nat → Nat → State → Result) (s : State) : Result :=
  match s.hdrAns with
  | [] => wait s
  | .hdr w h :: as => cont w h { s with hdrAns := as }
  | .formatErr :: as => .next (raise .formatError { s with hdrAns := as })
  | .ioErr :: as => .next (raise .ioError { s with hdrAns := as })

/-- `SrcNext()` and what follows it (R11, R132, R206, R207): `px` consumes a pixel, `eof` raises `FormatError`,
`src_fail` raises `IOError`, with no answer the step waits. -/
def srcNext (cont : Bool → State → Result) (s : State) : Result :=
  match s.pxAns with
  | [] => wait s
  | .px p :: as => cont p { s with pxAns := as, npx := s.npx + 1 }
  | .eof :: as => .next (raise .formatError { s with pxAns := as })
  | .srcFail :: as => .next (raise .ioError { s with pxAns := as })

/-- One step of emitting the byte list `bs` (R205, R211, R213, R216, R232): byte `K` is written, `K` advances, and
`finish` follows when `K` reaches the length. -/
def emitByte (bs : List Byte) (finish : State → State) (s : State) : Result :=
  match bs[s.k]? with
  | none => .fault .counterOutOfRange
  | some b =>
    chPut b (fun t =>
      if t.k + 1 = bs.length then finish { t with k := t.k + 1 } else { t with k := t.k + 1 }) s

/-! ## Requests -/

/-- Whether a request is accepted now (R201): while `BUSY` = 1 it is held off, which changes nothing (log entry 12); an
ill-formed configuration is refused (U15, log entry 18). -/
def whenIdle (accept : State → Result) (s : State) : Result :=
  if s.busy then .next s
  else if s.cfg.wf then accept s
  else .refused .illFormedConfig

/-- The state a `FRAME` request leaves when it is accepted (R231). -/
def latchFrame (fd : FrameDesc) (s : State) : State :=
  { beginOperation s with fd := fd, k := 0, phase := .frame }

/-- The accepting step of a `FRAME` request (R231, R107). -/
def requestFrame (fd : FrameDesc) (s : State) : Result :=
  whenIdle (fun t => if parFits fd.par t.cfg.frameMax then .next (latchFrame fd t) else .refused .frameTooLong) s

end Sys2Proof.Machine
end

