-- ==== Sys2Proof/Machine/Tiler.lean ====
section
/-! DEFINITION. The row-band tiler (`42_band_tiler.md`) and its two phases, `FILL` (R206 to R208) and `REPL` (R210). -/

namespace Sys2Proof.Machine

/-- The start of a band: `I`, `X` are 0 and `PHASE` is `FILL` (R205, R215). `BUF[0..NBYTES-1]` is cleared, which R33, R183
and U2 let a model do with no observable difference (log entry 5). -/
def startBand (s : State) : State :=
  { s with i := 0, x := 0, phase := .fill, buf := s.buf.clearBelow (min s.nbytes s.cfg.bufBytes) }

/-- `PACK(x, i, p)` (R176): a read-modify-write of one byte. -/
def pack (x i : Nat) (p : Bool) (s : State) : Except Fault State :=
  match memRead s (packAddr x i) with
  | .error f => .error f
  | .ok old => memWrite s (packAddr x i) (packByte old i p)

/-- The end of `FILL` (R208): Low mode replicates first, High mode has no replication (R182). -/
def endFill (s : State) : State :=
  if s.res = 0 then { s with x := 0, phase := .repl } else { s with k := 0, phase := .padout }

/-- The advance of column and sub-row after a pixel (R206). -/
def advancePixel (s : State) : State :=
  if s.x + 1 = s.w then
    if s.i + 1 = s.rowh then endFill { s with x := 0, i := s.i + 1 } else { s with x := 0, i := s.i + 1 }
  else { s with x := s.x + 1 }

/-- Packing a pixel at (`X`, `I`) and advancing (R206). -/
def packPixel (p : Bool) (s : State) : Result :=
  match pack s.x s.i p s with
  | .error f => .fault f
  | .ok t => .next (advancePixel t)

/-- The `FILL` step (R206): a real sub-row takes its pixel from the source (`FETCHROW`, R173), a sub-row at or below `H` is
clear with no transaction (`ZEROROW`, R174). -/
def fillStep (s : State) : Result := if s.y + s.i < s.h then srcNext packPixel s else packPixel false s

/-- `REPL3` of one column (R181): byte `3x` copied into `3x+1` and `3x+2`. -/
def replicate (x : Nat) (s : State) : Except Fault State :=
  match memRead s (Config.bpc * x) with
  | .error f => .error f
  | .ok v =>
    match memWrite s (Config.bpc * x + 1) v with
    | .error f => .error f
    | .ok t => memWrite t (Config.bpc * x + 2) v

/-- The advance of the replicated column (R210). -/
def advanceColumn (s : State) : State :=
  if s.x + 1 = s.w then { s with x := s.x + 1, k := 0, phase := .padout } else { s with x := s.x + 1 }

/-- The `REPL` step (R210), Low mode only. -/
def replStep (s : State) : Result :=
  match replicate s.x s with
  | .error f => .fault f
  | .ok t => .next (advanceColumn t)

end Sys2Proof.Machine
end

