-- ==== Sys2Proof/Machine/Band.lean ====
section
/-! DEFINITION. The emission of a band (`43_encode_sequence.md` section 5): `PADRUN` (R209), `BIMG` (R211, R212), the
trailer and the band loop (R213 to R215). -/

namespace Sys2Proof.Machine

/-- `PADRUN` (R209), the `PADOUT` step: one space while `K < PAD`, then on to the header with no transaction. Only a
conversion issues it: elsewhere it is refused (R110, log entry 13). -/
def execPadrun (pad : Nat) (s : State) : Result :=
  match s.phase with
  | .padout =>
    if s.k < pad then chPut s.cfg.sp (fun t => { t with k := t.k + 1 }) s
    else .next { s with k := 0, phase := .hdr }
  | _ => .refused .noRequestForm

/-- The end of the header (R211). -/
def endHeader (s : State) : State := { s with k := 0, phase := .data }

/-- The advance of `K` after a band byte (R212). -/
def advanceData (s : State) : State :=
  if s.k + 1 = s.nbytes then { s with k := 0, phase := .trail } else { s with k := s.k + 1 }

/-- The `DATA` step of `BIMG` (R212): byte `K` of the band. A byte the band does not hold faults as its read does (R64,
R35). -/
def emitBandByte (d : List Byte) (s : State) : Result :=
  if s.k < s.cfg.bufBytes then
    match d[s.k]? with
    | none => .fault .bufUnwritten
    | some b => chPut b advanceData s
  else .fault .bufIndexOutOfRange

/-- `BIMG` (R242): a header byte in phase `HDR` (R211), a band byte in phase `DATA` (R212). Only a conversion issues it:
elsewhere it is refused (R110, log entry 13). -/
def execBimg (m : Byte) (cols : BitVec 16) (d : List Byte) (s : State) : Result :=
  match s.phase with
  | .hdr => emitByte (bimgHeader s.cfg m cols) endHeader s
  | .data => emitBandByte d s
  | _ => .refused .noRequestForm

/-- The `BIMG` instruction the sequencer issues (R235, R242): its operands are `DENS`, `COLS` and the band. -/
def bandInstr (s : State) : Instr := .bimg s.dens (BitVec.ofNat 16 s.cols) (bandBytes s)

/-- The band advance and the loop test (R214, R215). -/
def advanceBand (s : State) : State :=
  if s.y + s.rowh < s.h then startBand { s with y := s.y + s.rowh }
  else { s with y := s.y + s.rowh, k := 0, phase := .restore }

/-- The `TRAIL` step (R213). -/
def trailStep (s : State) : Result := emitByte (trailerBytes s.cfg) advanceBand s

end Sys2Proof.Machine
end

