-- ==== Sys2Proof/Machine/Encode.lean ====
section
/-! DEFINITION. `ENCODE` (`43_encode_sequence.md`): its accepting step (R202), the `CHECK` step (R203, R204), the line
pitch set (R205) and restored (R216). -/

namespace Sys2Proof.Machine

/-- The state an `ENCODE` request leaves when it is accepted (R202). -/
def latchEncode (resSel justSel : Byte) (s : State) : State :=
  { beginOperation s with res := resSel, just := justSel, phase := .check }

/-- `ENCODE res_sel, just_sel`: the accepting step (R202). Invalid selectors are found by the `CHECK` step (U8). -/
def execEncode (resSel justSel : Byte) (s : State) : Result :=
  whenIdle (fun t => .next (latchEncode resSel justSel t)) s

/-- `CHECK` passed: latch and derive (R204). -/
def latchImage (w h : Nat) (s : State) : State :=
  { s with
    w := w, h := h, rowh := rowhOf s.res, cols := idw s.cfg s.res w, nbytes := w * Config.bpc,
    pad := jcalc s.cfg s.just (idw s.cfg s.res w), dens := densOf s.cfg s.res, pitch := pitchOf s.cfg s.res,
    y := 0, k := 0, phase := .setup }

/-- The checks on an answered header and what follows them (R203, R156, R155). -/
def checkHeader (w h : Nat) (s : State) : Result :=
  match precheck s.cfg s.res s.just w h with
  | .pass => .next (latchImage w h s)
  | .raises e => .next (raise e s)
  | .refuses => .refused .heightNotRepresentable

/-- The `CHECK` step (R203): one `SrcHdr()`. -/
def checkStep (s : State) : Result := srcHdr checkHeader s

/-- The `SETUP` step (R205): a byte of `LSP PITCH`; after the third the first band starts. -/
def setupStep (s : State) : Result := emitByte (lspBytes s.cfg s.pitch) startBand s

/-- The `RESTORE` step (R216): a byte of `LSPD`; after the second `PHASE` is `DONE`. -/
def restoreStep (s : State) : Result := emitByte (lspdBytes s.cfg) (fun t => { t with phase := .done }) s

end Sys2Proof.Machine
end

