-- ==== Sys2Proof/Machine/Framer.lean ====
section
/-! DEFINITION. The command framer (`44_command_framer.md`): `FRAME`, the sixteen named requests, each one expansion of
R110 into the generic framer, and the emission step of a host frame (R232). -/

namespace Sys2Proof.Machine

/-- `FRAME pfx, code, par, zt`: the accepting step (R231). -/
def execFrame (pfx : Pfx) (code : Byte) (par : List Byte) (zt : Bool) (s : State) : Result :=
  requestFrame ⟨pfx, code, par, zt⟩ s

/-- `LSP n` (R240, R110): `FRAME ESC, '3', n`. -/
def execLsp (n : Byte) (s : State) : Result := requestFrame ⟨.esc, Config.ch3, [n], false⟩ s

/-- `LSPD` (R241, R110): `FRAME ESC, '2'`. -/
def execLspd (s : State) : Result := requestFrame ⟨.esc, Config.ch2, [], false⟩ s

/-- `BUZZ` (R243, R110): `FRAME ESC, BUZZER_CODE`. -/
def execBuzz (s : State) : Result := requestFrame ⟨.esc, s.cfg.buzzerCode, [], false⟩ s

/-- `PCUT` (R244, R110): `FRAME GS, 'V', 0x01`. -/
def execPcut (s : State) : Result := requestFrame ⟨.gs, Config.chUpperV, [0x01], false⟩ s

/-- `UL m` (R245, R110): `FRAME ESC, '-', m`; refused outside its domain. -/
def execUl (m : Byte) (s : State) : Result :=
  if underlineDomain m then requestFrame ⟨.esc, Config.chMinus, [m], false⟩ s else .refused .underlineDomain

/-- `CHSZ hmag, vmag` (R246, R102, R110): `FRAME GS, CHSIZE_CODE, ((hmag-1)<<4)|(vmag-1)`; refused outside its
domain. -/
def execChsz (hmag vmag : Nat) (s : State) : Result :=
  if magDomain hmag && magDomain vmag then requestFrame ⟨.gs, s.cfg.chsizeCode, [chszParam hmag vmag], false⟩ s
  else .refused .magnificationDomain

/-- `FONT m` (R247, R110): `FRAME ESC, FONT_CODE, m`. -/
def execFont (m : Byte) (s : State) : Result := requestFrame ⟨.esc, s.cfg.fontCode, [m], false⟩ s

/-- `DBLP m` (R248, R110): `FRAME ESC, DBLPRINT_CODE, m`. -/
def execDblp (m : Byte) (s : State) : Result := requestFrame ⟨.esc, s.cfg.dblprintCode, [m], false⟩ s

/-- `EMPH m` (R249, R110): `FRAME ESC, EMPH_CODE, m`. -/
def execEmph (m : Byte) (s : State) : Result := requestFrame ⟨.esc, s.cfg.emphCode, [m], false⟩ s

/-- `INV m` (R250, R110): `FRAME GS, INVERSE_CODE, m`. -/
def execInv (m : Byte) (s : State) : Result := requestFrame ⟨.gs, s.cfg.inverseCode, [m], false⟩ s

/-- `MIRR m` (R251, R110): `FRAME ESC, MIRROR_CODE, m`. -/
def execMirr (m : Byte) (s : State) : Result := requestFrame ⟨.esc, s.cfg.mirrorCode, [m], false⟩ s

/-- `ROT m` (R252, R110): `FRAME ESC, ROTATE_CODE, m`. -/
def execRot (m : Byte) (s : State) : Result := requestFrame ⟨.esc, s.cfg.rotateCode, [m], false⟩ s

/-- `BCW v` (R253, R110): `FRAME GS, 'w', v`. -/
def execBcw (v : Byte) (s : State) : Result := requestFrame ⟨.gs, Config.chLowerW, [v], false⟩ s

/-- `BCH v` (R254, R110): `FRAME GS, 'h', v`. -/
def execBch (v : Byte) (s : State) : Result := requestFrame ⟨.gs, Config.chLowerH, [v], false⟩ s

/-- `BCTP v` (R255, R110): `FRAME GS, 'H', v`. -/
def execBctp (v : Byte) (s : State) : Result := requestFrame ⟨.gs, Config.chUpperH, [v], false⟩ s

/-- `BCODE m, s` (R256, R259, R110): `FRAME GS, 'k', m, s[0], ..., Z`; refused when a payload byte is outside 0x01 to
0x7F or the payload does not fit. -/
def execBcode (m : Byte) (payload : List Byte) (s : State) : Result :=
  if payload.all payloadByte && parFits (m :: payload) s.cfg.frameMax then
    requestFrame ⟨.gs, Config.chLowerK, m :: payload, true⟩ s
  else .refused .payloadDomain

/-- The emission step of a host frame (R232): byte `K` of the descriptor's bytes; after the last one `PHASE` is
`DONE`. -/
def frameStep (s : State) : Result := emitByte (frameBytes s.cfg s.fd) (fun t => { t with phase := .done }) s

end Sys2Proof.Machine
end

