-- ==== Sys2Proof/Machine/Dispatch.lean ====
section
/-! DEFINITION. What an instruction does: one arm per constructor, each one call of its meaning. -/

namespace Sys2Proof.Machine

def exec (i : Instr) (s : State) : Host.Outcome State Fault Refusal :=
  match i with
  | .encode resSel justSel => Sys2Proof.Machine.execEncode resSel justSel s
  | .frame pfx code par zt => Sys2Proof.Machine.execFrame pfx code par zt s
  | .lsp n => Sys2Proof.Machine.execLsp n s
  | .lspd => Sys2Proof.Machine.execLspd s
  | .bimg m cols d => Sys2Proof.Machine.execBimg m cols d s
  | .buzz => Sys2Proof.Machine.execBuzz s
  | .pcut => Sys2Proof.Machine.execPcut s
  | .ul m => Sys2Proof.Machine.execUl m s
  | .chsz hmag vmag => Sys2Proof.Machine.execChsz hmag vmag s
  | .font m => Sys2Proof.Machine.execFont m s
  | .dblp m => Sys2Proof.Machine.execDblp m s
  | .emph m => Sys2Proof.Machine.execEmph m s
  | .inv m => Sys2Proof.Machine.execInv m s
  | .mirr m => Sys2Proof.Machine.execMirr m s
  | .rot m => Sys2Proof.Machine.execRot m s
  | .bcw v => Sys2Proof.Machine.execBcw v s
  | .bch v => Sys2Proof.Machine.execBch v s
  | .bctp v => Sys2Proof.Machine.execBctp v s
  | .bcode m payload => Sys2Proof.Machine.execBcode m payload s
  | .padrun pad => Sys2Proof.Machine.execPadrun pad s

end Sys2Proof.Machine
end

