-- ==== Sys2Proof/Machine/Fetch.lean ====
section
/-! DEFINITION. Where the next instruction comes from. MRE has no program counter (`10_state.md` R26): while `BUSY` = 0 the
request lines give it (`43_encode_sequence.md` R201), in phases `PADOUT`, `HDR` and `DATA` the sequencer issues it (R235). -/

namespace Sys2Proof.Machine

/-- What the request lines give. -/
inductive Fetched where
  /-- No request is presented. -/
  | none
  /-- The presented request is the instruction `i`; `s` is the state with the request taken off the lines. -/
  | instr (i : Instr) (s : State)
  /-- The presented request is no instruction. -/
  | undecodable (e : DecodeError)

/-- The presented request, read once (R92). Accepting takes it off the lines: the next one of the host's program is then
presented (log entry 17). -/
def fetch (s : State) : Fetched :=
  match s.reqs with
  | [] => .none
  | r :: rest =>
    match decode s.cfg r with
    | .ok i => .instr i { s with reqs := rest }
    | .error e => .undecodable e

/-- The state in which no operation runs, for presenting a request. -/
def makeQuiescent (s : State) : State := if s.busy then { s with phase := .idle } else s

/-- Put an instruction where the next step takes it from: `PADRUN` and `BIMG` are issued by the sequencer in phases
`PADOUT` and `HDR` with operands from `PAD`, `DENS`, `COLS` and `BUF`, every other one is presented as a request (log
entry 11). -/
def presentInstr (i : Instr) (bytes : List Byte) (s : State) : State :=
  match i with
  | .padrun pad => { s with rst := false, phase := .padout, k := 0, pad := pad }
  | .bimg m cols d =>
    { s with
      rst := false, phase := .hdr, k := 0, dens := m, cols := cols.toNat, nbytes := d.length,
      buf := (List.range d.length).zip d }
  | _ => { makeQuiescent s with rst := false, reqs := .wire bytes :: s.reqs }

/-- Put the instruction of a table word where the next step takes it from. -/
def presentTableWord (s : State) (nbits w : Nat) : State :=
  match decodeTable s.cfg nbits w with
  | some (i, bytes) => presentInstr i bytes s
  | none => { makeQuiescent s with rst := false, reqs := .wire (wordBytes nbits w) :: s.reqs }

end Sys2Proof.Machine
end

