-- ==== Sys2Proof/Machine/Step.lean ====
section
/-! DEFINITION. One step of MRE (`43_encode_sequence.md` R200): exactly one of the rules R202, R203, R205, R206, R209 to R213,
R216, R231, R232, selected by `PHASE`; or the reset wire (R320); or none (R218, R341). -/

namespace Sys2Proof.Machine

/-- One step. The reset wire acts between two steps (R322). -/
def step (s : State) : Host.Outcome State Fault Refusal :=
  if s.rst then .next (applyReset s)
  else
    match s.phase with
    | .idle | .done | .err =>
      match fetch s with
      | .none => wait s
      | .instr i t => exec i t
      | .undecodable e => .refused (.undecodable e)
    | .check => checkStep s
    | .setup => setupStep s
    | .fill => fillStep s
    | .repl => replStep s
    | .padout => exec (.padrun s.pad) s
    | .hdr | .data => exec (bandInstr s) s
    | .trail => trailStep s
    | .restore => restoreStep s
    | .frame => frameStep s

/-- `s` with the instruction of a table word placed where `step` takes its next instruction from. -/
def State.withFetchWord (s : State) (nbits w : Nat) : State := presentTableWord s nbits w

end Sys2Proof.Machine
end

