-- ==== Sys2Proof/Machine/ClosedForm.lean ====
section
/-! DEFINITION. The closed forms the spec gives of what a band and a conversion emit: the pixel function (R175), the band
bytes (R184), their unpacking (R185), the number of bands (R172), the whole stream (R219) and its length (R220). The step
does not use them; claims compare it with them. -/

namespace Sys2Proof.Machine

/-- `pix(Y, x, i)` (R175): the pixel of the source, or clear at or below row `H`. -/
def pix (w h : Nat) (P : List Bool) (y x i : Nat) : Bool :=
  if y + i < h then P.getD ((y + i) * w + x) false else false

/-- The byte whose bit `7 - j` is `f j` (R184). -/
def byteOfRows (f : Nat → Bool) : Byte :=
  BitVec.ofNat 8 ((List.range 8).map fun j => (f j).toNat <<< (7 - j)).sum

/-- Byte `n` of the band that starts at row `y` (R184): `n = 3x + k`. -/
def bandByte (res : Byte) (w h : Nat) (P : List Bool) (y n : Nat) : Byte :=
  byteOfRows fun j => pix w h P y (n / 3) (if res = 0 then j else 8 * (n % 3) + j)

/-- The `NBYTES` bytes of a band (R184, R171). -/
def bandBytesOf (res : Byte) (w h : Nat) (P : List Bool) (y : Nat) : List Byte :=
  (List.range (3 * w)).map (bandByte res w h P y)

/-- The pixel at column `x`, sub-row `i` of a band's bytes (R185). -/
def unpackPixel (band : List Byte) (x i : Nat) : Bool :=
  decide ((band.getD (3 * x + i / 8) 0 >>> (7 - i % 8)) &&& 1 = (1 : Byte))

/-- `NB`, the number of bands (R172). -/
def bandCount (res : Byte) (h : Nat) : Nat := (h + rowhOf res - 1) / rowhOf res

/-- What is emitted for band `b` (R219): padding, header, data, trailer. -/
def bandUnit (c : Config) (res just : Byte) (w h : Nat) (P : List Bool) (b : Nat) : List Byte :=
  List.replicate (jcalc c just (idw c res w)) c.sp ++ bimgHeader c (densOf c res) (BitVec.ofNat 16 (idw c res w)) ++
    bandBytesOf res w h P (b * rowhOf res) ++ trailerBytes c

/-- The stream of a fault-free conversion (R219). -/
def conversionStream (c : Config) (res just : Byte) (w h : Nat) (P : List Bool) : List Byte :=
  lspBytes c (pitchOf c res) ++ (List.range (bandCount res h)).flatMap (bandUnit c res just w h P) ++ lspdBytes c

end Sys2Proof.Machine
end

