-- ==== Sys2Proof/Machine/Environment.lean ====
section
/-! DEFINITION. What the environment may do between two steps (`70_reset_and_hazards.md` R342). -/

namespace Sys2Proof.Machine

/-- The moves of the environment: the host's liberties of R342, and the answers of the source and the channel (R11). -/
inductive EnvMove where
  /-- The host presents, changes or withdraws requests (R342, R201, R92). -/
  | setRequests (rs : List Request)
  /-- The host drives the reset wire (R320, R342). -/
  | pulseReset
  /-- The source will answer a coming `SrcHdr` so. -/
  | answerHdr (a : HdrAnswer)
  /-- The source will answer a coming `SrcNext` so. -/
  | answerPx (a : PxAnswer)
  /-- The channel will answer a coming `ChPut` so. -/
  | answerCh (a : ChAnswer)
  /-- The host positions the source (R329): its coming answers are these. -/
  | positionSource (hs : List HdrAnswer) (ps : List PxAnswer)
  /-- The host itself writes a byte to the channel (R331). -/
  | hostWrite (b : Byte)
  deriving DecidableEq, Repr

/-- A move of the environment. There is none that writes to `CH` while `BUSY` = 1 (R77, R331; log entry 20). -/
def envMove (m : EnvMove) (s : State) : Option State :=
  match m with
  | .setRequests rs => some { s with reqs := rs }
  | .pulseReset => some { s with rst := true }
  | .answerHdr a => some { s with hdrAns := s.hdrAns ++ [a] }
  | .answerPx a => some { s with pxAns := s.pxAns ++ [a] }
  | .answerCh a => some { s with chAns := s.chAns ++ [a] }
  | .positionSource hs ps => some { s with hdrAns := hs, pxAns := ps }
  | .hostWrite b => if s.busy then none else some { s with ch := s.ch ++ [b] }

/-- What a source positioned at an image answers (R109, R66): the header, and the pixels in row-major order. -/
def imageMove (w h : Nat) (P : List Bool) : EnvMove := .positionSource [.hdr w h] (P.map .px)

end Sys2Proof.Machine
end

