-- ==== Sys2Proof/Safety.lean ====
section
/-! DEFINITION. What claims speak of: runs, the invariant of every run from reset, the accounting of bytes and pixels, and
which parts of the state an outside observer sees. -/

namespace Sys2Proof.Machine

/-- `n` steps, stopping at the first fault or refusal. -/
def runSteps : Nat → State → Result
  | 0, s => .next s
  | n + 1, s =>
    match step s with
    | .next t => runSteps n t
    | .fault f => .fault f
    | .refused r => .refused r

/-- `t` can be reached from `s` by steps of MRE and moves of the environment (R342, R322). -/
inductive Reaches (s : State) : State → Prop where
  | refl : Reaches s s
  | step {t u : State} : Reaches s t → Machine.step t = .next u → Reaches s u
  | env {t u : State} (m : EnvMove) : Reaches s t → envMove m t = some u → Reaches s u

/-! ## The invariant -/

/-- The latched and derived registers of a conversion whose checks passed (R22, R23, R156), and the band start a multiple
of `ROWH` (R24). -/
structure ConversionRegs (s : State) : Prop where
  res : validRes s.res = true
  just : validJust s.just = true
  w_pos : 1 ≤ s.w
  h_pos : 1 ≤ s.h
  h_fits : s.h < 2 ^ s.cfg.dimBits
  fits : idw s.cfg s.res s.w ≤ limitOf s.cfg s.res
  rowh : s.rowh = rowhOf s.res
  cols : s.cols = idw s.cfg s.res s.w
  nbytes : s.nbytes = 3 * s.w
  pad : s.pad = jcalc s.cfg s.just s.cols
  dens : s.dens = densOf s.cfg s.res
  pitch : s.pitch = pitchOf s.cfg s.res
  band : s.rowh ∣ s.y

/-- Every byte of the band holds a value (R183). -/
def BandWritten (s : State) : Prop := ∀ n < s.nbytes, (s.buf.read n).isSome = true

/-- The ranges of the counters in each phase (R24, R26). -/
def PhaseRanges (s : State) : Prop :=
  match s.phase with
  | .idle | .check | .done | .err => True
  | .setup => ConversionRegs s ∧ s.y = 0 ∧ s.k < 3
  | .fill => ConversionRegs s ∧ s.y < s.h ∧ s.i < s.rowh ∧ s.x < s.w ∧ BandWritten s
  | .repl => ConversionRegs s ∧ s.res = 0 ∧ s.y < s.h ∧ s.x < s.w ∧ BandWritten s
  | .padout => ConversionRegs s ∧ s.y < s.h ∧ s.k ≤ s.pad ∧ BandWritten s
  | .hdr => ConversionRegs s ∧ s.y < s.h ∧ s.k < 5 ∧ BandWritten s
  | .data => ConversionRegs s ∧ s.y < s.h ∧ s.k < s.nbytes ∧ BandWritten s
  | .trail => ConversionRegs s ∧ s.y < s.h ∧ s.k < 2 ∧ BandWritten s
  | .restore => ConversionRegs s ∧ s.h ≤ s.y ∧ s.y ≤ s.h + s.rowh - 1 ∧ s.k < 2
  | .frame => s.fd.par.length ≤ s.cfg.frameMax ∧ s.k < (frameBytes s.cfg s.fd).length

/-- The status registers (R28): `ERRCODE` is 0 to 4, it is 0 exactly outside `ERR`, and a nonzero one is logged. -/
structure StatusLegal (s : State) : Prop where
  code_range : s.errcode.toNat ≤ 4
  err_iff : s.phase = .err ↔ s.errcode ≠ 0
  logged : s.errcode ≠ 0 → s.errlog.getLsbD (s.errcode.toNat - 1) = true

/-- `BUF` in canonical form and inside its bounds (R60). -/
structure BufferLegal (s : State) : Prop where
  canonical : s.buf.wf
  bounded : ∀ e ∈ s.buf, e.1 < s.cfg.bufBytes

/-- The invariant of every run from reset. -/
structure Inv (s : State) : Prop where
  config : s.cfg.wf = true
  status : StatusLegal s
  buffer : BufferLegal s
  ranges : PhaseRanges s

/-! ## Acceptance of a frame -/

/-- `i` is accepted at `s` as a frame request whose frame has these bytes (R231, R93): the descriptor is latched, the
status and the history are cleared, emission starts at byte 0, nothing else changes. -/
def AcceptedAsFrame (i : Instr) (s : State) (bytes : List Byte) : Prop :=
  ∃ fd : FrameDesc, frameBytes s.cfg fd = bytes ∧
    exec i s = .next { s with fd := fd, errcode := 0, out := [], npx := 0, k := 0, phase := .frame }

/-! ## Refusal of a request -/

/-- `r` is the reason the request `q` is refused for: what it asks for is outside its domain (R107, R245, R246, R259), has
no request form (R110, log entry 13), or is no instruction at all (log entry 9). -/
def RefusedFor (c : Config) (q : Request) (r : Refusal) : Prop :=
  match decode c q with
  | .error e => r = .undecodable e
  | .ok (.frame _ _ par _) => r = .frameTooLong ∧ c.frameMax < par.length
  | .ok (.ul m) => r = .underlineDomain ∧ ¬(m = 0x30 ∨ m = 0x31 ∨ m = 0x32)
  | .ok (.chsz hmag vmag) => r = .magnificationDomain ∧ ¬(1 ≤ hmag ∧ hmag ≤ 16 ∧ 1 ≤ vmag ∧ vmag ≤ 16)
  | .ok (.bcode _ s) =>
    r = .payloadDomain ∧ ¬((∀ b ∈ s, 1 ≤ b.toNat ∧ b.toNat ≤ 0x7F) ∧ 1 + s.length ≤ c.frameMax)
  | .ok (.bimg _ _ _) | .ok (.padrun _) => r = .noRequestForm
  | .ok (.encode _ _) | .ok (.lsp _) | .ok .lspd | .ok .buzz | .ok .pcut | .ok (.font _) | .ok (.dblp _)
  | .ok (.emph _) | .ok (.inv _) | .ok (.mirr _) | .ok (.rot _) | .ok (.bcw _) | .ok (.bch _) | .ok (.bctp _) => False

/-! ## Accounting -/

/-- The bytes a band contributes to the stream (R220). -/
def unitLength (s : State) : Nat := s.pad + 5 + s.nbytes + 2

/-- The bytes emitted before band `Y` (R220): `LSP` and the bands before it. -/
def sentBefore (s : State) : Nat := 3 + s.y / s.rowh * unitLength s

/-- `len(OUT)` and `NPX` in each phase (R219, R220, R67, R290). -/
def Accounting (s : State) : Prop :=
  match s.phase with
  | .idle | .done | .err => True
  | .check => s.out.length = 0 ∧ s.npx = 0
  | .setup => s.out.length = s.k ∧ s.npx = 0
  | .fill =>
    s.out.length = sentBefore s ∧ s.npx = min (s.y + s.i) s.h * s.w + (if s.y + s.i < s.h then s.x else 0)
  | .repl => s.out.length = sentBefore s ∧ s.npx = min (s.y + s.rowh) s.h * s.w
  | .padout => s.out.length = sentBefore s + s.k ∧ s.npx = min (s.y + s.rowh) s.h * s.w
  | .hdr => s.out.length = sentBefore s + s.pad + s.k ∧ s.npx = min (s.y + s.rowh) s.h * s.w
  | .data => s.out.length = sentBefore s + s.pad + 5 + s.k ∧ s.npx = min (s.y + s.rowh) s.h * s.w
  | .trail => s.out.length = sentBefore s + s.pad + 5 + s.nbytes + s.k ∧ s.npx = min (s.y + s.rowh) s.h * s.w
  | .restore => s.out.length = sentBefore s + s.k ∧ s.npx = s.h * s.w
  | .frame => s.out.length = s.k ∧ s.npx = 0

/-- While an operation runs, what the printer received last is `OUT` (R68, R70, R77). -/
def StreamDelivered (s : State) : Prop := s.busy = true → s.out <:+ s.ch

/-! ## Observation -/

/-- What the host, the printer and the history see of a state: everything but the registers and `BUF`, which have no port
(R30, R342). -/
structure Observed where
  cfg : Config
  phase : Phase
  errcode : BitVec 3
  errlog : BitVec 4
  out : List Byte
  npx : Nat
  rst : Bool
  reqs : List Request
  hdrAns : List HdrAnswer
  pxAns : List PxAnswer
  chAns : List ChAnswer
  ch : List Byte
  deriving DecidableEq, Repr

/-- The observable part of a state. -/
def State.observe (s : State) : Observed where
  cfg := s.cfg
  phase := s.phase
  errcode := s.errcode
  errlog := s.errlog
  out := s.out
  npx := s.npx
  rst := s.rst
  reqs := s.reqs
  hdrAns := s.hdrAns
  pxAns := s.pxAns
  chAns := s.chAns
  ch := s.ch

/-- The observable part of an outcome. -/
def observeOutcome : Result → Host.Outcome Observed Fault Refusal
  | .next s => .next s.observe
  | .fault f => .fault f
  | .refused r => .refused r

/-- A result with a change made to its next state. -/
def mapNext (f : State → State) : Result → Result
  | .next s => .next (f s)
  | .fault e => .fault e
  | .refused r => .refused r

/-- The answer of a transaction the present step makes has not come (R341): the step can only wait. -/
def Waiting (s : State) : Prop :=
  match s.phase with
  | .idle | .done | .err => s.reqs = []
  | .check => s.hdrAns = []
  | .fill => s.y + s.i < s.h ∧ s.pxAns = []
  | .repl => False
  | .padout => s.k < s.pad ∧ s.chAns = []
  | .setup | .hdr | .data | .trail | .restore | .frame => s.chAns = []

end Sys2Proof.Machine
end

