-- ==== Sys2Proof/Certificates/Slice0/Obligations.lean ====
section
/-! DEFINITION. The statements for the provers. `s.cfg.wf` (R7) stands as a premise where a request is accepted: U15 says an
ill-formed configuration is refused. Every statement holds for every well-formed configuration. -/

open Sys2Proof Sys2Proof.Machine

/-! ## Encoding -/

/-- R104's rows, a word of each written out: with the ASCII control characters and a configuration that can be read back,
each byte string reads as the row it stands for. -/
def Obligations.WordsOfTheTableDecode : Prop :=
  ∀ c : Config, c.parseable = true → c.esc = 0x1B → c.gs = 0x1D → c.sp = 0x20 → c.densityHigh = 0x21 →
    decode c (.wire [0x1B, 0x33, 0x18]) = .ok (.lsp 24) ∧
    decode c (.wire [0x1B, 0x32]) = .ok .lspd ∧
    decode c (.wire [0x1B, 0x2A, 0x21, 0x02, 0x00, 0x80, 0x00, 0x00, 0x40, 0x00, 0x00]) =
      .ok (.bimg 0x21 2 [0x80, 0x00, 0x00, 0x40, 0x00, 0x00]) ∧
    decode c (.wire [0x1B, c.buzzerCode]) = .ok .buzz ∧
    decode c (.wire [0x1D, 0x56, 0x01]) = .ok .pcut ∧
    decode c (.wire [0x1B, 0x2D, 0x31]) = .ok (.ul 0x31) ∧
    decode c (.wire [0x1D, c.chsizeCode, 0x12]) = .ok (.chsz 2 3) ∧
    decode c (.wire [0x1B, c.fontCode, 0x01]) = .ok (.font 1) ∧
    decode c (.wire [0x1B, c.dblprintCode, 0x01]) = .ok (.dblp 1) ∧
    decode c (.wire [0x1B, c.emphCode, 0x00]) = .ok (.emph 0) ∧
    decode c (.wire [0x1D, c.inverseCode, 0x01]) = .ok (.inv 1) ∧
    decode c (.wire [0x1B, c.mirrorCode, 0x01]) = .ok (.mirr 1) ∧
    decode c (.wire [0x1B, c.rotateCode, 0x01]) = .ok (.rot 1) ∧
    decode c (.wire [0x1D, 0x77, 0x02]) = .ok (.bcw 2) ∧
    decode c (.wire [0x1D, 0x68, 0x50]) = .ok (.bch 80) ∧
    decode c (.wire [0x1D, 0x48, 0x02]) = .ok (.bctp 2) ∧
    decode c (.wire [0x1D, 0x6B, 0x04, 0x41, 0x42, 0x00]) = .ok (.bcode 4 [0x41, 0x42]) ∧
    decode c (.wire [0x20, 0x20, 0x20]) = .ok (.padrun 3)

/-- Decoding an encoded well-formed instruction gives it back, for every operand; the empty padding run has no bytes to
read. -/
def Obligations.DecodeInvertsEncode : Prop :=
  ∀ (c : Config) (i : Instr), c.parseable = true → i.wellFormed c = true → i ≠ .padrun 0 →
    decode c (encode c i) = .ok i

/-- Whatever the decoder reads, encoding it gives the request it was read from, unless the request names the instruction
itself: no bit of a request is dropped and no two byte strings read alike. Holds under every configuration. -/
def Obligations.EncodeInvertsDecode : Prop :=
  ∀ (c : Config) (r : Request) (i : Instr), decode c r = .ok i → r = encode c i ∨ r = .named i

/-- Bytes that are not one instruction whole are rejected by name: no byte, a wrong first byte, a code byte that is none of
R104's, a cut with another parameter, a density that is none of the two, a frame cut short at any place, a barcode without
its terminator, and bytes after an instruction (after padding, other than a space). That a cut with another parameter, which
`FRAME` can emit, is rejected is the model's choice (log entry 30). -/
def Obligations.NonFramesRejected : Prop :=
  ∀ c : Config,
    decode c (.wire []) = .error .empty ∧
    (∀ (b : Byte) (t : List Byte), b ≠ c.sp → b ≠ c.esc → b ≠ c.gs → decode c (.wire (b :: t)) = .error .noPrefixByte) ∧
    (c.parseable = true → ∀ (b : Byte) (t : List Byte),
      (b ∉ c.escCodes → decode c (.wire (c.esc :: b :: t)) = .error .unknownCode) ∧
      (b ∉ c.gsCodes → decode c (.wire (c.gs :: b :: t)) = .error .unknownCode) ∧
      (b ≠ 1 → decode c (.wire (c.gs :: 0x56 :: b :: t)) = .error .cutParameter) ∧
      (b ≠ c.densityLow → b ≠ c.densityHigh → ∀ nL nH : Byte,
        decode c (.wire (c.esc :: 0x2A :: b :: nL :: nH :: t)) = .error .unknownDensity)) ∧
    (c.parseable = true → ∀ (i : Instr) (n : Nat), i.wellFormed c = true → (∀ pad, i ≠ .padrun pad) →
      encode c i = .wire (wireBytes c i) → 0 < n → n < (wireBytes c i).length →
      decode c (.wire ((wireBytes c i).take n)) = .error .truncated ∨
      (∃ m s, i = .bcode m s) ∧ 3 ≤ n ∧ decode c (.wire ((wireBytes c i).take n)) = .error .noTerminator) ∧
    (c.parseable = true → ∀ (m : Byte) (t : List Byte), c.nul ∉ t →
      decode c (.wire (c.gs :: 0x6B :: m :: t)) = .error .noTerminator) ∧
    (c.parseable = true → ∀ (i : Instr) (b : Byte) (t : List Byte), i.wellFormed c = true → i ≠ .padrun 0 →
      encode c i = .wire (wireBytes c i) → ((∃ pad, i = .padrun pad) → b ≠ c.sp) →
      decode c (.wire (wireBytes c i ++ b :: t)) = .error .trailingBytes)

/-- R102: the character-size parameter holds `hmag - 1` in bits 7..4 and `vmag - 1` in bits 3..0. -/
def Obligations.SizeParameterFields : Prop :=
  ∀ hmag vmag : Nat, 1 ≤ hmag → hmag ≤ 16 → 1 ≤ vmag → vmag ≤ 16 →
    (chszParam hmag vmag).toNat = ((hmag - 1) <<< 4) ||| (vmag - 1) ∧
    (chszParam hmag vmag).toNat / 16 = hmag - 1 ∧ (chszParam hmag vmag).toNat % 16 = vmag - 1

/-- R106: the stream R219 gives reads back as its frames: `LSP`, then for each band the padding (none when `PAD` is 0), the
bit-image frame with the band's bytes, the trailer, then `LSPD`. -/
def Obligations.ConversionStreamParsesBack : Prop :=
  ∀ (c : Config) (res just : Byte) (w h : Nat) (P : List Bool), c.parseable = true → c.wf = true →
    precheck c res just w h = .pass → idw c res w < 2 ^ 16 →
    parseStream c (conversionStream c res just w h P) =
      .ok ([.instr (.lsp (pitchOf c res))] ++
        (List.range (bandCount res h)).flatMap (fun b =>
          (if jcalc c just (idw c res w) = 0 then [] else [.instr (.padrun (jcalc c just (idw c res w)))]) ++
            [.instr (.bimg (densOf c res) (BitVec.ofNat 16 (idw c res w)) (bandBytesOf res w h P (b * rowhOf res))),
              .trailer]) ++
        [.instr .lspd])

/-! ## Requests -/

/-- R202: an accepted `ENCODE` latches the selectors, clears `ERRCODE` and the history, and goes to `CHECK`; nothing else
changes. -/
def Obligations.EncodeAccepted : Prop :=
  ∀ (s : State) (r j : Byte), s.busy = false → s.cfg.wf = true →
    exec (.encode r j) s =
      .next { s with res := r, just := j, errcode := 0, out := [], npx := 0, phase := .check }

/-- R231: an accepted `FRAME` latches the descriptor, clears `ERRCODE` and the history, and goes to `FRAME` with `K` = 0;
nothing else changes. -/
def Obligations.FrameAccepted : Prop :=
  ∀ (s : State) (pfx : Pfx) (code : Byte) (par : List Byte) (zt : Bool), s.busy = false → s.cfg.wf = true →
    par.length ≤ s.cfg.frameMax →
    exec (.frame pfx code par zt) s =
      .next { s with fd := ⟨pfx, code, par, zt⟩, errcode := 0, out := [], npx := 0, k := 0, phase := .frame }

/-- R107: a `FRAME` with more than `FRAME_MAX` parameters is refused. -/
def Obligations.OversizeFrameRefused : Prop :=
  ∀ (s : State) (pfx : Pfx) (code : Byte) (par : List Byte) (zt : Bool), s.busy = false → s.cfg.wf = true →
    s.cfg.frameMax < par.length → exec (.frame pfx code par zt) s = .refused .frameTooLong

/-- R240, R241 as host requests: the two line-spacing frames. -/
def Obligations.LineSpacingRequestsAccepted : Prop :=
  ∀ s : State, s.busy = false → s.cfg.wf = true →
    (∀ n, AcceptedAsFrame (.lsp n) s [s.cfg.esc, 0x33, n]) ∧ AcceptedAsFrame .lspd s [s.cfg.esc, 0x32]

/-- R243, R244, R247 to R252: buzzer, cut, and the character toggles, with any mode byte. -/
def Obligations.ToggleRequestsAccepted : Prop :=
  ∀ s : State, s.busy = false → s.cfg.wf = true →
    AcceptedAsFrame .buzz s [s.cfg.esc, s.cfg.buzzerCode] ∧
    AcceptedAsFrame .pcut s [s.cfg.gs, 0x56, 0x01] ∧
    ∀ m : Byte,
      AcceptedAsFrame (.font m) s [s.cfg.esc, s.cfg.fontCode, m] ∧
      AcceptedAsFrame (.dblp m) s [s.cfg.esc, s.cfg.dblprintCode, m] ∧
      AcceptedAsFrame (.emph m) s [s.cfg.esc, s.cfg.emphCode, m] ∧
      AcceptedAsFrame (.inv m) s [s.cfg.gs, s.cfg.inverseCode, m] ∧
      AcceptedAsFrame (.mirr m) s [s.cfg.esc, s.cfg.mirrorCode, m] ∧
      AcceptedAsFrame (.rot m) s [s.cfg.esc, s.cfg.rotateCode, m]

/-- R253 to R255: the barcode settings, with any value byte. -/
def Obligations.BarcodeSettingsAccepted : Prop :=
  ∀ s : State, s.busy = false → s.cfg.wf = true → ∀ v : Byte,
    AcceptedAsFrame (.bcw v) s [s.cfg.gs, 0x77, v] ∧
    AcceptedAsFrame (.bch v) s [s.cfg.gs, 0x68, v] ∧
    AcceptedAsFrame (.bctp v) s [s.cfg.gs, 0x48, v]

/-- R245: `UL` is accepted for the three digits and refused for every other mode, which the generic `FRAME` still emits. -/
def Obligations.UnderlineDomain : Prop :=
  ∀ (s : State) (m : Byte), s.busy = false → s.cfg.wf = true →
    (m = 0x30 ∨ m = 0x31 ∨ m = 0x32 → AcceptedAsFrame (.ul m) s [s.cfg.esc, 0x2D, m]) ∧
    (¬(m = 0x30 ∨ m = 0x31 ∨ m = 0x32) → exec (.ul m) s = .refused .underlineDomain) ∧
    AcceptedAsFrame (.frame .esc 0x2D [m] false) s [s.cfg.esc, 0x2D, m]

/-- R246: `CHSZ` is accepted for operands 1 to 16, with the parameter of R102, and refused outside. -/
def Obligations.CharacterSizeDomain : Prop :=
  ∀ (s : State) (hmag vmag : Nat), s.busy = false → s.cfg.wf = true →
    if 1 ≤ hmag ∧ hmag ≤ 16 ∧ 1 ≤ vmag ∧ vmag ≤ 16 then
      AcceptedAsFrame (.chsz hmag vmag) s
        [s.cfg.gs, s.cfg.chsizeCode, BitVec.ofNat 8 (((hmag - 1) <<< 4) ||| (vmag - 1))]
    else exec (.chsz hmag vmag) s = .refused .magnificationDomain

/-- R259 (bytes of R256): `BCODE` is accepted exactly for a payload of bytes 0x01 to 0x7F that fits, and its frame ends in `NUL`. -/
def Obligations.BarcodePayloadDomain : Prop :=
  ∀ (s : State) (m : Byte) (payload : List Byte), s.busy = false → s.cfg.wf = true →
    if (∀ b ∈ payload, 1 ≤ b.toNat ∧ b.toNat ≤ 0x7F) ∧ 1 + payload.length ≤ s.cfg.frameMax then
      AcceptedAsFrame (.bcode m payload) s ([s.cfg.gs, 0x6B, m] ++ payload ++ [s.cfg.nul])
    else exec (.bcode m payload) s = .refused .payloadDomain

/-- R110: a named request inside its domain does what the `FRAME` request it expands to does, in every state and under
every configuration, and its wire bytes are that frame's; presented by name, a step takes it as it takes that `FRAME`
request. -/
def Obligations.NamedRequestsAreFrames : Prop :=
  ∀ (s : State) (i : Instr) (fd : FrameDesc), namedDescriptor s.cfg i = some fd → i.wellFormed s.cfg = true →
    exec i s = exec (.frame fd.pfx fd.code fd.par fd.zt) s ∧ wireBytes s.cfg i = frameBytes s.cfg fd ∧
    ∀ rest : List Request, s.rst = false → s.busy = false →
      step { s with reqs := .named i :: rest } =
        step { s with reqs := .frameRec fd.pfx fd.code fd.par fd.zt :: rest }

/-- `BIMG` and `PADRUN` have no request form (R110). That executing one on a quiescent machine, or presenting it there by
name, is refused under a name of its own is the model's choice (log entry 13). -/
def Obligations.BandEmissionsAreNoRequests : Prop :=
  ∀ (s : State) (m : Byte) (cols : BitVec 16) (d : List Byte) (pad : Nat) (rest : List Request), s.busy = false →
    exec (.bimg m cols d) s = .refused .noRequestForm ∧ exec (.padrun pad) s = .refused .noRequestForm ∧
    (s.rst = false → step { s with reqs := .named (.bimg m cols d) :: rest } = .refused .noRequestForm ∧
      step { s with reqs := .named (.padrun pad) :: rest } = .refused .noRequestForm)

/-- R201: while `BUSY` = 1 a request is held off: the step does what it does whatever stands on the request lines, and
leaves them as they are; a presented request is run by the first step at `BUSY` = 0. That this step takes the
request off the host's list is the model's choice (log entry 17). -/
def Obligations.RequestsHeldOffWhileBusy : Prop :=
  (∀ (s : State) (rs : List Request), s.busy = true → s.rst = false →
    step { s with reqs := rs } = mapNext (fun t => { t with reqs := rs }) (step s) ∧
      ∀ t, step s = .next t → t.reqs = s.reqs) ∧
  (∀ (s : State) (r : Request) (rest : List Request) (i : Instr), s.busy = false → s.rst = false →
    s.reqs = r :: rest → decode s.cfg r = .ok i → step s = exec i { s with reqs := rest })

/-- The step takes the decoded instruction: at `BUSY` = 0 the presented request, in phase `PADOUT` the padding run of `PAD`,
in phases `HDR` and `DATA` the bit image of `DENS`, `COLS` and the band. That acceptance takes the request off the host's
list (log entry 17), and how far the band is read for the operand (log entry 28), are the model's choices. -/
def Obligations.StepRunsTheDecodedInstruction : Prop :=
  (∀ (s : State) (r : Request) (rest : List Request) (i : Instr), s.rst = false → s.busy = false →
    s.reqs = r :: rest → decode s.cfg r = .ok i → step s = exec i { s with reqs := rest }) ∧
  (∀ s : State, s.rst = false → s.phase = .padout → step s = exec (.padrun s.pad) s) ∧
  (∀ s : State, s.rst = false → s.phase = .hdr ∨ s.phase = .data →
    step s = exec (.bimg s.dens (BitVec.ofNat 16 s.cols) (bandBytes s)) s)

/-- R218, R27: with no request and no reset, a quiescent machine takes no step. -/
def Obligations.QuiescentWithoutRequest : Prop :=
  ∀ s : State, s.rst = false → s.busy = false → s.reqs = [] → step s = .next s

/-! ## START checks and padding -/

/-- R203, R204, R156: the `CHECK` step, every branch in the order of the checks; when all pass, the latched and derived
registers get the values of R204 and nothing else changes. -/
def Obligations.CheckStepOutcome : Prop :=
  ∀ (s : State) (a : HdrAnswer) (as : List HdrAnswer), s.cfg.wf = true → s.rst = false → s.phase = .check →
    s.hdrAns = a :: as →
    step s =
      match a with
      | .formatErr => .next (raise .formatError { s with hdrAns := as })
      | .ioErr => .next (raise .ioError { s with hdrAns := as })
      | .hdr w h =>
        if w = 0 ∨ h = 0 then .next (raise .formatError { s with hdrAns := as })
        else if ¬(s.res = 0 ∨ s.res = 1) then .next (raise .unsupportedModeError { s with hdrAns := as })
        else if ¬(s.just = 0 ∨ s.just = 1 ∨ s.just = 2) then
          .next (raise .unsupportedModeError { s with hdrAns := as })
        else if (if s.res = 0 then s.cfg.limitLow else s.cfg.limitHigh) < (if s.res = 0 then 3 * w else w) then
          .next (raise .sizeLimitError { s with hdrAns := as })
        else if 2 ^ s.cfg.dimBits ≤ h then .refused .heightNotRepresentable
        else
          .next { s with
            hdrAns := as, w := w, h := h
            rowh := if s.res = 0 then 8 else 24
            cols := if s.res = 0 then 3 * w else w
            nbytes := 3 * w
            pad :=
              if s.just = 0 then 0
              else if s.just = 1 then (s.cfg.deviceWidth - (if s.res = 0 then 3 * w else w)) / 2 / s.cfg.padUnit
              else (s.cfg.deviceWidth - (if s.res = 0 then 3 * w else w)) / s.cfg.padUnit
            dens := if s.res = 0 then s.cfg.densityLow else s.cfg.densityHigh
            pitch := if s.res = 0 then s.cfg.pitchLow else s.cfg.pitchHigh
            y := 0, k := 0, phase := .setup }

/-- The padding never moves an accepted image past the page, and falls short of the right margin by less than one unit
(Right) or two (Center). -/
def Obligations.PaddingStaysOnThePage : Prop :=
  ∀ (c : Config) (res just : Byte) (w h : Nat), c.wf = true → precheck c res just w h = .pass →
    jcalc c just (idw c res w) * c.padUnit + idw c res w ≤ c.deviceWidth ∧
    (just = 2 → c.deviceWidth < jcalc c just (idw c res w) * c.padUnit + idw c res w + c.padUnit) ∧
    (just = 1 → c.deviceWidth < 2 * (jcalc c just (idw c res w) * c.padUnit) + idw c res w + 2 * c.padUnit)

/-- R160's ranges with the reference page of 576 dot-columns and units of 12. -/
def Obligations.PaddingRanges : Prop :=
  ∀ (c : Config) (n : Nat), c.deviceWidth = 576 → c.padUnit = 12 → 1 ≤ n → n ≤ 576 →
    jcalc c 0 n = 0 ∧ jcalc c 1 n ≤ 23 ∧ (jcalc c 1 n = 23 ↔ n ≤ 24) ∧ jcalc c 2 n ≤ 47 ∧
      (jcalc c 2 n = 47 ↔ n ≤ 12) ∧ (n ≤ 192 → 16 ≤ jcalc c 1 n ∧ 32 ≤ jcalc c 2 n) ∧
      (576 - n < 24 → jcalc c 1 n = 0) ∧ (576 - n < 12 → jcalc c 2 n = 0)

/-! ## The tiler -/

/-- R62: address and mask of a pixel; the byte lies in the band, and the band in `BUF`. -/
def Obligations.PackAddressInBand : Prop :=
  ∀ (c : Config) (res just : Byte) (w h x i : Nat), c.wf = true → precheck c res just w h = .pass →
    x < w → i < rowhOf res →
    packAddr x i = x * 3 + i / 8 ∧ packMask i = (0x80 : Byte) >>> (i % 8) ∧
      packAddr x i ≤ 3 * w - 1 ∧ 3 * w - 1 ≤ c.bufBytes - 1 ∧ packAddr x i < c.bufBytes ∧
      (res = 0 → packAddr x i = x * 3)

/-- R176: `PACK` sets or clears one bit of one byte; the byte's other bits, every other byte and the rest of the state
stay. -/
def Obligations.PackWritesOneBit : Prop :=
  ∀ (s : State) (x i : Nat) (p : Bool) (old : Byte), x * 3 + i / 8 < s.cfg.bufBytes →
    s.buf.read (x * 3 + i / 8) = some old →
    ∃ t new, pack x i p s = .ok t ∧ t = { s with buf := t.buf } ∧ t.buf.read (x * 3 + i / 8) = some new ∧
      new = (old &&& ~~~((0x80 : Byte) >>> (i % 8))) ||| (if p then (0x80 : Byte) >>> (i % 8) else 0) ∧
      new.getLsbD (7 - i % 8) = p ∧ (∀ j < 8, j ≠ 7 - i % 8 → new.getLsbD j = old.getLsbD j) ∧
      ∀ a, a ≠ x * 3 + i / 8 → t.buf.read a = s.buf.read a

/-- R206, R208: the `FILL` step packs one pixel, from the source for a row above `H` and clear otherwise, and advances
column, sub-row and phase. The stored byte is at `A(X, I)`, every other byte stays (`Memory.write`). -/
def Obligations.FillStepPacksOnePixel : Prop :=
  ∀ (s : State) (p : Bool) (as : List PxAnswer) (old : Byte), s.rst = false → s.phase = .fill →
    packAddr s.x s.i < s.cfg.bufBytes → s.buf.read (packAddr s.x s.i) = some old →
    let filled (q : Bool) (t : State) : State :=
      { t with
        buf := s.buf.write (packAddr s.x s.i) (packByte old s.i q)
        x := if s.x + 1 = s.w then 0 else s.x + 1
        i := if s.x + 1 = s.w then s.i + 1 else s.i
        k := if s.x + 1 = s.w ∧ s.i + 1 = s.rowh ∧ s.res ≠ 0 then 0 else s.k
        phase :=
          if s.x + 1 = s.w ∧ s.i + 1 = s.rowh then (if s.res = 0 then .repl else .padout) else .fill }
    (s.y + s.i < s.h → s.pxAns = .px p :: as →
      step s = .next (filled p { s with pxAns := as, npx := s.npx + 1 })) ∧
    (s.h ≤ s.y + s.i → step s = .next (filled false s))

/-- R207: a source that ends early raises `FormatError`, one that fails raises `IOError`; nothing is packed, nothing is
written, no pixel is counted. -/
def Obligations.SourceFailureRaises : Prop :=
  ∀ (s : State) (as : List PxAnswer), s.rst = false → s.phase = .fill → s.y + s.i < s.h →
    (s.pxAns = .eof :: as → step s = .next (raise .formatError { s with pxAns := as })) ∧
    (s.pxAns = .srcFail :: as → step s = .next (raise .ioError { s with pxAns := as }))

/-- R210, R181: the `REPL` step copies byte `3X` into `3X+1` and `3X+2` and advances; every other byte and the rest of the
state stay. -/
def Obligations.ReplicationStep : Prop :=
  ∀ (s : State) (v : Byte), s.rst = false → s.phase = .repl → 3 * s.x + 2 < s.cfg.bufBytes →
    s.buf.read (3 * s.x) = some v →
    ∃ t, step s = .next t ∧
      t = { s with
        buf := t.buf, x := s.x + 1, k := if s.x + 1 = s.w then 0 else s.k
        phase := if s.x + 1 = s.w then .padout else .repl } ∧
      t.buf.read (3 * s.x) = some v ∧ t.buf.read (3 * s.x + 1) = some v ∧ t.buf.read (3 * s.x + 2) = some v ∧
      ∀ a, a ≠ 3 * s.x + 1 → a ≠ 3 * s.x + 2 → t.buf.read a = s.buf.read a

/-- R184, R183: from the start of a band, whatever `BUF` held, the tiler reaches `PADOUT` with exactly the closed-form bytes
in the band, having taken from the source the band's real rows and nothing more, and having written nothing. -/
def Obligations.BandBytesAreTheClosedForm : Prop :=
  ∀ (s : State) (P : List Bool) (ps : List PxAnswer), Inv s → s.rst = false → s.phase = .fill → s.i = 0 → s.x = 0 →
    P.length = s.w * s.h →
    s.pxAns = (((P.drop (s.y * s.w)).take (min s.rowh (s.h - s.y) * s.w)).map .px) ++ ps →
    ∃ n t, runSteps n s = .next t ∧ t.phase = .padout ∧ t.k = 0 ∧ t.y = s.y ∧ t.pxAns = ps ∧
      t.npx = s.npx + min s.rowh (s.h - s.y) * s.w ∧ t.out = s.out ∧ t.ch = s.ch ∧ t.errcode = s.errcode ∧
      ∀ m < 3 * s.w, t.buf.read m = some (bandByte s.res s.w s.h P s.y m)

/-- R185: the pixels of a band are recovered from its bytes, the clear rows at the bottom included. -/
def Obligations.BandRoundTrip : Prop :=
  ∀ (res : Byte) (w h : Nat) (P : List Bool) (y x i : Nat), x < w → i < rowhOf res →
    unpackPixel (bandBytesOf res w h P y) x i = pix w h P y x i

/-! ## Emission -/

/-- R205: a byte of `LSP PITCH`; after the third the first band starts. That the band's bytes are then cleared is the
model's choice (log entry 5). -/
def Obligations.LinePitchSetStep : Prop :=
  ∀ (s : State) (b : Byte) (as : List ChAnswer), s.rst = false → s.phase = .setup →
    [s.cfg.esc, 0x33, s.pitch][s.k]? = some b → s.chAns = .ok :: as →
    step s =
      .next { s with
        chAns := as, out := s.out ++ [b], ch := s.ch ++ [b], k := s.k + 1
        i := if s.k = 2 then 0 else s.i
        x := if s.k = 2 then 0 else s.x
        phase := if s.k = 2 then .fill else .setup
        buf := if s.k = 2 then s.buf.clearBelow (min s.nbytes s.cfg.bufBytes) else s.buf }

/-- R209: `PADRUN` writes one space while `K < PAD`, raises `IOError` if the channel fails, and then goes on to the header
without a transaction. -/
def Obligations.PaddingRunStep : Prop :=
  ∀ (s : State) (pad : Nat) (as : List ChAnswer), s.phase = .padout →
    (s.k < pad → s.chAns = .ok :: as →
      exec (.padrun pad) s =
        .next { s with chAns := as, out := s.out ++ [s.cfg.sp], ch := s.ch ++ [s.cfg.sp], k := s.k + 1 }) ∧
    (s.k < pad → s.chAns = .chFail :: as → exec (.padrun pad) s = .next (raise .ioError { s with chAns := as })) ∧
    (pad ≤ s.k → exec (.padrun pad) s = .next { s with k := 0, phase := .hdr })

/-- R211: the header bytes of `BIMG`, the column count low byte first. -/
def Obligations.BandHeaderStep : Prop :=
  ∀ (s : State) (m : Byte) (cols : BitVec 16) (d : List Byte) (b : Byte) (as : List ChAnswer), s.phase = .hdr →
    [s.cfg.esc, 0x2A, m, BitVec.ofNat 8 (cols.toNat % 256), BitVec.ofNat 8 (cols.toNat / 256)][s.k]? = some b →
    s.chAns = .ok :: as →
    exec (.bimg m cols d) s =
      .next { s with
        chAns := as, out := s.out ++ [b], ch := s.ch ++ [b]
        k := if s.k = 4 then 0 else s.k + 1
        phase := if s.k = 4 then .data else .hdr }

/-- R212: the band bytes of `BIMG`, byte `K` of the band as it is; after `NBYTES` of them the trailer. -/
def Obligations.BandDataStep : Prop :=
  ∀ (s : State) (m : Byte) (cols : BitVec 16) (d : List Byte) (b : Byte) (as : List ChAnswer), s.phase = .data →
    s.k < s.cfg.bufBytes → d[s.k]? = some b → s.chAns = .ok :: as →
    exec (.bimg m cols d) s =
      .next { s with
        chAns := as, out := s.out ++ [b], ch := s.ch ++ [b]
        k := if s.k + 1 = s.nbytes then 0 else s.k + 1
        phase := if s.k + 1 = s.nbytes then .trail else .data }

/-- R212 at the step: in phase `DATA` the byte written is `BUF[K]`; a channel failure raises `IOError`. -/
def Obligations.DataStepWritesTheBufferByte : Prop :=
  ∀ (s : State) (b : Byte) (as : List ChAnswer), Inv s → s.rst = false → s.phase = .data →
    s.buf.read s.k = some b →
    (s.chAns = .ok :: as → step s =
      .next { s with
        chAns := as, out := s.out ++ [b], ch := s.ch ++ [b]
        k := if s.k + 1 = s.nbytes then 0 else s.k + 1
        phase := if s.k + 1 = s.nbytes then .trail else .data }) ∧
    (s.chAns = .chFail :: as → step s = .next (raise .ioError { s with chAns := as }))

/-- R213, R214, R215: the trailer, the band advance and the loop test. That the next band's bytes are then cleared is the
model's choice (log entry 5). -/
def Obligations.TrailerAndBandLoop : Prop :=
  ∀ (s : State) (as : List ChAnswer), s.rst = false → s.phase = .trail → s.chAns = .ok :: as →
    (s.k = 0 → step s =
      .next { s with chAns := as, out := s.out ++ [s.cfg.cr], ch := s.ch ++ [s.cfg.cr], k := 1 }) ∧
    (s.k = 1 → s.y + s.rowh < s.h → step s =
      .next { s with
        chAns := as, out := s.out ++ [s.cfg.lf], ch := s.ch ++ [s.cfg.lf], k := 2, y := s.y + s.rowh
        i := 0, x := 0, phase := .fill, buf := s.buf.clearBelow (min s.nbytes s.cfg.bufBytes) }) ∧
    (s.k = 1 → s.h ≤ s.y + s.rowh → step s =
      .next { s with
        chAns := as, out := s.out ++ [s.cfg.lf], ch := s.ch ++ [s.cfg.lf], k := 0, y := s.y + s.rowh
        phase := .restore })

/-- R216: the two bytes of `LSPD`, then `DONE`; a channel failure raises `IOError`. -/
def Obligations.LinePitchRestoreStep : Prop :=
  ∀ (s : State) (as : List ChAnswer), s.rst = false → s.phase = .restore →
    (s.k = 0 → s.chAns = .ok :: as → step s =
      .next { s with chAns := as, out := s.out ++ [s.cfg.esc], ch := s.ch ++ [s.cfg.esc], k := 1 }) ∧
    (s.k = 1 → s.chAns = .ok :: as → step s =
      .next { s with chAns := as, out := s.out ++ [0x32], ch := s.ch ++ [0x32], k := 2, phase := .done }) ∧
    (s.k < 2 → s.chAns = .chFail :: as → step s = .next (raise .ioError { s with chAns := as }))

/-- R232, R233: an accepted frame, given enough `ok` answers, is emitted whole and alone, then `DONE`; the frame request is
taken from the lines, everything else is as it was. -/
def Obligations.FrameRequestEmitsItsFrame : Prop :=
  ∀ (s : State) (pfx : Pfx) (code : Byte) (par : List Byte) (zt : Bool) (rest : List Request) (cs : List ChAnswer),
    s.rst = false → s.busy = false → s.cfg.wf = true → par.length ≤ s.cfg.frameMax →
    s.reqs = .frameRec pfx code par zt :: rest →
    let bytes := [if pfx = .esc then s.cfg.esc else s.cfg.gs, code] ++ par ++ (if zt then [s.cfg.nul] else [])
    s.chAns = List.replicate bytes.length .ok ++ cs →
    runSteps (1 + bytes.length) s =
      .next { s with
        fd := ⟨pfx, code, par, zt⟩, errcode := 0, out := bytes, npx := 0, k := bytes.length, phase := .done
        reqs := rest, chAns := cs, ch := s.ch ++ bytes }

/-- R216, R284: `RESTORE`, where `LSPD` is written, is entered only by the trailer step of the last band; and a step that
raises an error writes no byte. -/
def Obligations.LinePitchRestoredOnlyOnCompletion : Prop :=
  ∀ s t : State, step s = .next t →
    (t.phase = .restore → s.phase ≠ .restore → s.phase = .trail ∧ s.k = 1 ∧ s.h ≤ s.y + s.rowh) ∧
    (t.phase = .err → s.phase ≠ .err → t.ch = s.ch ∧ t.out = s.out)

/-- R217: a channel failure in any emitting phase raises `IOError` and changes nothing else: the byte is not in `OUT`, `K`
does not advance. -/
def Obligations.ChannelFailureRaises : Prop :=
  ∀ (s : State) (as : List ChAnswer), s.rst = false → s.chAns = .chFail :: as →
    ((s.phase = .setup ∧ s.k < 3) ∨ (s.phase = .padout ∧ s.k < s.pad) ∨ (s.phase = .hdr ∧ s.k < 5) ∨
      (s.phase = .data ∧ s.k < s.nbytes ∧ s.k < s.cfg.bufBytes ∧ ∀ n ≤ s.k, (s.buf.read n).isSome = true) ∨
      (s.phase = .trail ∧ s.k < 2) ∨ (s.phase = .restore ∧ s.k < 2) ∨
      (s.phase = .frame ∧ s.k < 2 + s.fd.par.length + s.fd.zt.toNat)) →
    step s = .next (raise .ioError { s with chAns := as })

/-! ## Errors, reset, waiting -/

/-- R284: what raising an error writes, for each kind, and that the machine then makes no `ChPut`, `SrcNext` or `SrcHdr` for
this operation: a step from `ERR` writes nothing to the channel and takes no answer. -/
def Obligations.RaiseEffect : Prop :=
  (∀ s : State,
    raise .formatError s = { s with errcode := 1, errlog := s.errlog ||| 1, phase := .err } ∧
    raise .unsupportedModeError s = { s with errcode := 2, errlog := s.errlog ||| 2, phase := .err } ∧
    raise .sizeLimitError s = { s with errcode := 3, errlog := s.errlog ||| 4, phase := .err } ∧
    raise .ioError s = { s with errcode := 4, errlog := s.errlog ||| 8, phase := .err }) ∧
  (∀ s t : State, s.phase = .err → step s = .next t →
    t.ch = s.ch ∧ t.hdrAns = s.hdrAns ∧ t.pxAns = s.pxAns ∧ t.chAns = s.chAns)

/-- R280: which phase an error comes from. Only `CHECK` raises codes 2 and 3, only `CHECK` and `FILL` code 1, and a host
frame raises no code but 4. -/
def Obligations.ErrorsComeFromTheirPhases : Prop :=
  ∀ s t : State, Inv s → s.rst = false → step s = .next t → s.phase ≠ .err → t.phase = .err →
    (t.errcode = 1 ∧ (s.phase = .check ∨ s.phase = .fill)) ∨ (t.errcode = 2 ∧ s.phase = .check) ∨
    (t.errcode = 3 ∧ s.phase = .check) ∨
    (t.errcode = 4 ∧ s.phase ≠ .idle ∧ s.phase ≠ .done ∧ s.phase ≠ .repl)

/-- R28: a bit of `ERRLOG` once set stays set until reset, and a step sets one only by entering `ERR`. -/
def Obligations.ErrorLogIsSticky : Prop :=
  ∀ s t : State, s.rst = false → step s = .next t →
    (∀ n, s.errlog.getLsbD n = true → t.errlog.getLsbD n = true) ∧ (t.errlog ≠ s.errlog → t.phase = .err)

/-- R35, R320: the state after reset, as far as the spec gives it: idle, not busy, no error, no log, empty history, and no
byte of `BUF` readable. -/
def Obligations.ResetState : Prop :=
  State.reset.phase = .idle ∧ State.reset.status = ⟨false, 0, 0⟩ ∧ State.reset.out = [] ∧ State.reset.npx = 0 ∧
    ∀ a, ∃ f, memRead State.reset a = .error f

/-- R320, R322: the reset wire abandons whatever runs; it writes nothing to the channel, asks the source nothing and touches
neither the configuration nor the other agents. -/
def Obligations.ResetWireAbandonsTheOperation : Prop :=
  ∀ s : State, s.rst = true →
    ∃ t, step s = .next t ∧ t.phase = .idle ∧ t.status = ⟨false, 0, 0⟩ ∧ t.out = [] ∧ t.npx = 0 ∧
      (∀ a, t.buf.read a = none) ∧ t.rst = false ∧ t.cfg = s.cfg ∧ t.ch = s.ch ∧ t.hdrAns = s.hdrAns ∧
      t.pxAns = s.pxAns ∧ t.chAns = s.chAns ∧ t.reqs = s.reqs

/-- R341, R218: a step leaves the state as it is exactly when the transaction it would make has not been answered, or no
request is presented. -/
def Obligations.StepWaitsExactlyWhenUnanswered : Prop :=
  ∀ s : State, Inv s → s.rst = false → (step s = .next s ↔ Waiting s)

/-! ## Whole-machine rules -/

/-- R22, R23: between acceptance and the end nothing writes the request registers, and after `CHECK` nothing writes the image
and derived registers; the configuration is never written, by reset neither. -/
def Obligations.LatchedRegistersAreStable : Prop :=
  ∀ s t : State, step s = .next t →
    t.cfg = s.cfg ∧
    (s.rst = false → s.busy = true → t.res = s.res ∧ t.just = s.just ∧ t.fd = s.fd) ∧
    (s.rst = false → s.phase ≠ .check →
      t.w = s.w ∧ t.h = s.h ∧ t.rowh = s.rowh ∧ t.cols = s.cols ∧ t.nbytes = s.nbytes ∧ t.pad = s.pad ∧
        t.dens = s.dens ∧ t.pitch = s.pitch)

/-- R200, R71: a step makes at most one transaction: it takes at most one answer of the source and the channel together, and
writes at most one byte, which it also adds to `OUT`. -/
def Obligations.OneTransactionPerStep : Prop :=
  ∀ s t : State, s.rst = false → step s = .next t →
    t.hdrAns <:+ s.hdrAns ∧ t.pxAns <:+ s.pxAns ∧ t.chAns <:+ s.chAns ∧
    s.hdrAns.length + s.pxAns.length + s.chAns.length ≤ t.hdrAns.length + t.pxAns.length + t.chAns.length + 1 ∧
    ((t.ch = s.ch ∧ (t.out = s.out ∨ t.out = [])) ∨
      ∃ b, t.ch = s.ch ++ [b] ∧ t.out = s.out ++ [b] ∧ t.chAns ≠ s.chAns)

/-- The invariant holds after reset. -/
def Obligations.ResetMeetsTheInvariant : Prop := Inv State.reset

/-- Every step keeps the invariant: the configuration is well formed, the status registers are legal (R28), `BUF` is
canonical and in its bounds (R60), and in each phase the latched registers and the counters are what R22 to R26 say. -/
def Obligations.StepKeepsTheInvariant : Prop :=
  ∀ s t : State, Inv s → step s = .next t → Inv t

/-- The environment's moves keep it too (R342), so it holds in every session. -/
def Obligations.SessionsKeepTheInvariant : Prop :=
  ∀ s t : State, Inv s → Reaches s t → Inv t

/-- R64, R321: from a state that meets the invariant no step faults. -/
def Obligations.NoStepFaults : Prop :=
  ∀ (s : State) (f : Fault), Inv s → step s ≠ .fault f

/-- From a state that meets the invariant a step is refused exactly for an image that passes every other check and is too
high to latch (R155), or, at `BUSY` = 0, for the presented request, by a reason that is true of it (`RefusedFor`): R107,
R245, R246 or R259. That a request is also refused as no instruction (log entry 9) and as one without request form (log entry
13) is the model's choice. -/
def Obligations.OnlyNamedRefusals : Prop :=
  ∀ (s : State) (r : Refusal), Inv s →
    (step s = .refused r ↔ s.rst = false ∧
      ((s.phase = .check ∧ r = .heightNotRepresentable ∧
          ∃ w h as, s.hdrAns = .hdr w h :: as ∧ precheck s.cfg s.res s.just w h = .refuses) ∨
        (s.busy = false ∧ ∃ q rest, s.reqs = q :: rest ∧ RefusedFor s.cfg q r)))

/-- R219, R220, R67, R290: every step keeps the accounting of emitted bytes and consumed pixels. -/
def Obligations.StepKeepsTheAccounting : Prop :=
  ∀ s t : State, Inv s → Accounting s → step s = .next t → Accounting t

/-- R68, R70: every step keeps that the bytes of the running operation are the last the printer received, in order and with
nothing between them. -/
def Obligations.StepKeepsTheDeliveredStream : Prop :=
  ∀ s t : State, StreamDelivered s → step s = .next t → StreamDelivered t

/-- R33, R221: what the registers and `BUF` hold before a request is accepted is never observed: two quiescent states that
look alike from outside look alike after any number of steps. -/
def Obligations.StaleContentsAreNeverObserved : Prop :=
  ∀ (s t : State) (n : Nat), s.busy = false → s.observe = t.observe →
    observeOutcome (runSteps n s) = observeOutcome (runSteps n t)

/-! ## The whole conversion -/

/-- R220: the length of the fault-free stream. -/
def Obligations.ConversionStreamLength : Prop :=
  ∀ (c : Config) (res just : Byte) (w h : Nat) (P : List Bool),
    (conversionStream c res just w h P).length =
      3 + (h + rowhOf res - 1) / rowhOf res * (jcalc c just (idw c res w) + 5 + 3 * w + 2) + 2

/-- R219, R218: a fault-free conversion ends in `DONE` having emitted exactly the closed form and consumed exactly `W*H`
pixels. -/
def Obligations.ConversionEmitsTheClosedForm : Prop :=
  ∀ (s : State) (r j : Byte) (w h : Nat) (P : List Bool) (rest : List Request) (hs : List HdrAnswer)
    (ps : List PxAnswer) (cs : List ChAnswer),
    s.rst = false → s.busy = false → s.cfg.wf = true → precheck s.cfg r j w h = .pass →
    s.reqs = .encodeRec r j :: rest → s.hdrAns = .hdr w h :: hs →
    P.length = w * h → s.pxAns = P.map .px ++ ps →
    s.chAns = List.replicate (conversionStream s.cfg r j w h P).length .ok ++ cs →
    ∃ n t, runSteps n s = .next t ∧ t.phase = .done ∧ t.status = ⟨false, 0, s.errlog⟩ ∧
      t.out = conversionStream s.cfg r j w h P ∧ t.ch = s.ch ++ conversionStream s.cfg r j w h P ∧
      t.npx = w * h ∧ t.reqs = rest ∧ t.hdrAns = hs ∧ t.pxAns = ps ∧ t.chAns = cs

/-- R222: at every step of a conversion, whatever the source and the channel answer, `OUT` is a prefix of the closed form
for the pixels consumed. -/
def Obligations.EmittedStreamIsAPrefix : Prop :=
  ∀ (s t : State) (r j : Byte) (w h n : Nat) (P : List Bool),
    s.rst = false → s.busy = false → s.cfg.wf = true → precheck s.cfg r j w h = .pass →
    s.reqs = [.encodeRec r j] → s.hdrAns = [.hdr w h] → P.length = w * h →
    (∀ m b, m < w * h → s.pxAns[m]? = some (.px b) → P[m]? = some b) →
    runSteps (n + 1) s = .next t → t.out <+: conversionStream s.cfg r j w h P

/-- R341: every operation ends after finitely many steps if every transaction it starts is answered: with long enough lists of
answers, whatever they are, the machine comes to `DONE` or `ERR`, or the image is refused (R155). -/
def Obligations.EveryAnsweredOperationEnds : Prop :=
  ∀ s : State, Inv s → s.rst = false → s.busy = true → (s.phase = .check → s.hdrAns ≠ []) →
    ∃ N, ∀ (ps : List PxAnswer) (cs : List ChAnswer), N ≤ ps.length → N ≤ cs.length →
      ∃ n, runSteps n { s with pxAns := ps, chAns := cs } = .refused .heightNotRepresentable ∨
        ∃ t, runSteps n { s with pxAns := ps, chAns := cs } = .next t ∧ (t.phase = .done ∨ t.phase = .err)
end

