-- ==== Sys2Proof/Laws/Memory.lean ====
section
/-! SUPPORT. The laws of `BUF`: read after write, and that every operation keeps the canonical form. -/

namespace Sys2Proof.Machine

namespace Memory

/-- A read after a write to the same address gives the value written. -/
@[simp] theorem read_write_same (m : Memory) (a : Nat) (v : Byte) : (m.write a v).read a = some v := by
  induction m with
  | nil => simp [write, read]
  | cons e m ih =>
    obtain ⟨b, u⟩ := e
    simp only [write]
    split
    · simp [read]
    · split
      · simp [read]
      · next h => simp [read, h, ih]

/-- A write leaves every other address as it was. -/
theorem read_write_other (m : Memory) {a b : Nat} (v : Byte) (h : b ≠ a) : (m.write a v).read b = m.read b := by
  induction m with
  | nil => simp [write, read, h, unlisted]
  | cons e m ih =>
    obtain ⟨c, u⟩ := e
    simp only [write]
    split
    · simp [read, h]
    · split
      · next _ h' => subst h'; simp [read, h]
      · simp [read, ih]

/-- Read after write, in one equation. -/
theorem read_write (m : Memory) (a b : Nat) (v : Byte) :
    (m.write a v).read b = if b = a then some v else m.read b := by
  split
  · next h => rw [h, read_write_same]
  · next h => rw [read_write_other m v h]

/-- The addresses a write lists are the old ones and the one written. -/
theorem mem_write {m : Memory} {a : Nat} {v : Byte} {e : Host.Cell} (h : e ∈ m.write a v) :
    e = (a, v) ∨ e ∈ m := by
  induction m with
  | nil => simpa [write] using h
  | cons c m ih =>
    obtain ⟨b, u⟩ := c
    simp only [write] at h
    split at h
    · simpa using h
    · split at h
      · simp only [List.mem_cons] at h ⊢
        tauto
      · simp only [List.mem_cons] at h ⊢
        rcases h with h | h
        · exact .inr (.inl h)
        · rcases ih h with h | h
          · exact .inl h
          · exact .inr (.inr h)

/-- A write keeps the canonical form. -/
theorem write_wf {m : Memory} (a : Nat) (v : Byte) (h : m.wf) : (m.write a v).wf := by
  induction m with
  | nil => simp [write]
  | cons c m ih =>
    obtain ⟨b, u⟩ := c
    have hb := (List.pairwise_cons.1 h).1
    have hm := (List.pairwise_cons.1 h).2
    simp only [write]
    split
    · next hlt =>
      refine List.pairwise_cons.2 ⟨fun e he => ?_, h⟩
      rcases List.mem_cons.1 he with rfl | he
      · exact hlt
      · exact Nat.lt_trans hlt (hb e he)
    · split
      · next _ heq =>
        subst heq
        exact List.pairwise_cons.2 ⟨hb, hm⟩
      · next h1 h2 =>
        refine List.pairwise_cons.2 ⟨fun e he => ?_, ih hm⟩
        rcases mem_write he with rfl | he
        · show b < a
          omega
        · exact hb e he

/-- The zero cells are those of the given range. -/
theorem mem_zeros {start n : Nat} {e : Host.Cell} (h : e ∈ zeros start n) : start ≤ e.1 ∧ e.1 < start + n := by
  induction n generalizing start with
  | zero => simp [zeros] at h
  | succ n ih =>
    rcases List.mem_cons.1 h with rfl | h
    · exact ⟨Nat.le_refl _, by simp⟩
    · have := ih h
      omega

/-- The zero cells are in canonical form. -/
theorem zeros_wf (start n : Nat) : (zeros start n).wf := by
  induction n generalizing start with
  | zero => simp [zeros]
  | succ n ih =>
    refine List.pairwise_cons.2 ⟨fun e he => ?_, ih (start + 1)⟩
    have := (mem_zeros he).1
    show start < e.1
    omega

/-- A zero cell reads as zero, and nothing else is listed before `rest`. -/
theorem read_zeros_append (start n : Nat) (rest : Memory) (a : Nat) :
    read (zeros start n ++ rest) a = if start ≤ a ∧ a < start + n then some 0 else read rest a := by
  induction n generalizing start with
  | zero => simp [zeros]
  | succ n ih =>
    simp only [zeros, List.cons_append, read, ih]
    split
    · next h => subst h; simp
    · next h =>
      by_cases h' : start + 1 ≤ a ∧ a < start + 1 + n
      · have : start ≤ a ∧ a < start + (n + 1) := by omega
        rw [if_pos h', if_pos this]
      · have : ¬(start ≤ a ∧ a < start + (n + 1)) := by omega
        rw [if_neg h', if_neg this]

/-- Dropping the cells below `n` leaves the reads from `n` on as they were. -/
theorem read_filter (m : Memory) {n a : Nat} (h : n ≤ a) :
    read (m.filter fun e => decide (n ≤ e.1)) a = read m a := by
  induction m with
  | nil => rfl
  | cons c m ih =>
    obtain ⟨b, u⟩ := c
    by_cases hb : n ≤ b
    · simp [List.filter, hb, read, ih]
    · have : a ≠ b := by omega
      simp [List.filter, hb, read, ih, this]

/-- What clearing leaves: zero below `n`, everything else as it was. -/
theorem read_clearBelow (m : Memory) (n a : Nat) :
    (m.clearBelow n).read a = if a < n then some 0 else m.read a := by
  simp only [clearBelow, read_zeros_append]
  by_cases h : a < n
  · simp [h]
  · have h' : n ≤ a := by omega
    simp [h, read_filter m h']

/-- Clearing keeps the canonical form. -/
theorem clearBelow_wf {m : Memory} (n : Nat) (h : m.wf) : (m.clearBelow n).wf := by
  refine List.pairwise_append.2 ⟨zeros_wf 0 n, List.Pairwise.filter _ h, fun a ha b hb => ?_⟩
  have h1 := (mem_zeros ha).2
  have h2 : n ≤ b.1 := by simpa using (List.mem_filter.1 hb).2
  omega

/-- Clearing lists addresses below `n` and old ones. -/
theorem mem_clearBelow {m : Memory} {n : Nat} {e : Host.Cell} (h : e ∈ m.clearBelow n) : e.1 < n ∨ e ∈ m := by
  rcases List.mem_append.1 h with h | h
  · have := (mem_zeros h).2
    omega
  · exact .inr (List.mem_filter.1 h).1

/-- Everything listed in a memory in canonical form reads as listed. -/
theorem read_of_mem {m : Memory} {a : Nat} {v : Byte} (h : m.wf) (hm : (a, v) ∈ m) : m.read a = some v := by
  induction m with
  | nil => simp at hm
  | cons c m ih =>
    obtain ⟨b, u⟩ := c
    have hb := (List.pairwise_cons.1 h).1
    rcases List.mem_cons.1 hm with heq | hm
    · obtain ⟨rfl, rfl⟩ := Prod.mk.inj heq
      simp [read]
    · have : b < a := hb _ hm
      have hne : a ≠ b := by omega
      simp [read, hne, ih (List.pairwise_cons.1 h).2 hm]

/-- The reset memory is in canonical form. -/
theorem reset_wf : (State.reset.buf).wf := List.Pairwise.nil

end Memory

/-! ## `MemRead` and `MemWrite` -/

/-- Everything `memRead` can answer. -/
theorem memRead_ok {s : State} {a : Nat} {v : Byte} :
    memRead s a = .ok v ↔ a < s.cfg.bufBytes ∧ s.buf.read a = some v := by
  unfold memRead
  split
  · next h => cases hr : s.buf.read a <;> simp [h]
  · next h => simp [h]

/-- Everything `memWrite` can answer. -/
theorem memWrite_ok {s t : State} {a : Nat} {v : Byte} :
    memWrite s a v = .ok t ↔ a < s.cfg.bufBytes ∧ t = { s with buf := s.buf.write a v } := by
  unfold memWrite
  split
  · next h => simp [h, eq_comm]
  · next h => simp [h]

/-- An index outside `BUF` faults on a read (R64). -/
theorem memRead_out_of_range {s : State} {a : Nat} (h : s.cfg.bufBytes ≤ a) :
    memRead s a = .error .bufIndexOutOfRange := by
  simp [memRead, Nat.not_lt.2 h]

/-- An index outside `BUF` faults on a write (R64). -/
theorem memWrite_out_of_range {s : State} {a : Nat} (v : Byte) (h : s.cfg.bufBytes ≤ a) :
    memWrite s a v = .error .bufIndexOutOfRange := by
  simp [memWrite, Nat.not_lt.2 h]

/-- A run of readable bytes is read whole. -/
theorem readRun_eq_map (s : State) (f : Nat → Byte) (a n : Nat) (h : ∀ j < n, memRead s (a + j) = .ok (f (a + j))) :
    readRun s a n = (List.range n).map fun j => f (a + j) := by
  induction n generalizing a with
  | zero => rfl
  | succ n ih =>
    have h0 : memRead s a = .ok (f a) := by simpa using h 0 (by omega)
    have hn := ih (a + 1) fun j hj => by
      have := h (j + 1) (by omega)
      rwa [show a + (j + 1) = a + 1 + j by omega] at this
    rw [readRun, h0, hn, List.range_succ_eq_map]
    simp [Nat.add_assoc, Nat.add_comm 1]

/-- A byte of a run is the byte at its address. -/
theorem readRun_getElem {s : State} {a n j : Nat} {v : Byte} (h : (readRun s a n)[j]? = some v) :
    j < n ∧ memRead s (a + j) = .ok v := by
  induction n generalizing a j with
  | zero => simp [readRun] at h
  | succ n ih =>
    rw [readRun] at h
    split at h
    · next u hu =>
      cases j with
      | zero =>
        have : u = v := by simpa using h
        subst this
        exact ⟨by omega, by simpa using hu⟩
      | succ j =>
        have := ih (a := a + 1) (j := j) (by simpa using h)
        refine ⟨by omega, ?_⟩
        rw [show a + (j + 1) = a + 1 + j by omega]
        exact this.2
    · simp at h

end Sys2Proof.Machine
end

