-- ==== Sys2Proof/Laws/State.lean ====
section
/-! SUPPORT. One lemma per field per named update of State, so that no proof unfolds a record update. -/

namespace Sys2Proof.Machine

/-! ## `raise` -/

@[simp] theorem raise_cfg (e : ErrorKind) (s : State) : (raise e s).cfg = s.cfg := rfl
@[simp] theorem raise_phase (e : ErrorKind) (s : State) : (raise e s).phase = .err := rfl
@[simp] theorem raise_res (e : ErrorKind) (s : State) : (raise e s).res = s.res := rfl
@[simp] theorem raise_just (e : ErrorKind) (s : State) : (raise e s).just = s.just := rfl
@[simp] theorem raise_w (e : ErrorKind) (s : State) : (raise e s).w = s.w := rfl
@[simp] theorem raise_h (e : ErrorKind) (s : State) : (raise e s).h = s.h := rfl
@[simp] theorem raise_rowh (e : ErrorKind) (s : State) : (raise e s).rowh = s.rowh := rfl
@[simp] theorem raise_cols (e : ErrorKind) (s : State) : (raise e s).cols = s.cols := rfl
@[simp] theorem raise_nbytes (e : ErrorKind) (s : State) : (raise e s).nbytes = s.nbytes := rfl
@[simp] theorem raise_pad (e : ErrorKind) (s : State) : (raise e s).pad = s.pad := rfl
@[simp] theorem raise_dens (e : ErrorKind) (s : State) : (raise e s).dens = s.dens := rfl
@[simp] theorem raise_pitch (e : ErrorKind) (s : State) : (raise e s).pitch = s.pitch := rfl
@[simp] theorem raise_y (e : ErrorKind) (s : State) : (raise e s).y = s.y := rfl
@[simp] theorem raise_i (e : ErrorKind) (s : State) : (raise e s).i = s.i := rfl
@[simp] theorem raise_x (e : ErrorKind) (s : State) : (raise e s).x = s.x := rfl
@[simp] theorem raise_k (e : ErrorKind) (s : State) : (raise e s).k = s.k := rfl
@[simp] theorem raise_fd (e : ErrorKind) (s : State) : (raise e s).fd = s.fd := rfl
@[simp] theorem raise_errcode (e : ErrorKind) (s : State) : (raise e s).errcode = e.code := rfl
@[simp] theorem raise_errlog (e : ErrorKind) (s : State) : (raise e s).errlog = s.errlog ||| e.logBit := rfl
@[simp] theorem raise_buf (e : ErrorKind) (s : State) : (raise e s).buf = s.buf := rfl
@[simp] theorem raise_out (e : ErrorKind) (s : State) : (raise e s).out = s.out := rfl
@[simp] theorem raise_npx (e : ErrorKind) (s : State) : (raise e s).npx = s.npx := rfl
@[simp] theorem raise_rst (e : ErrorKind) (s : State) : (raise e s).rst = s.rst := rfl
@[simp] theorem raise_reqs (e : ErrorKind) (s : State) : (raise e s).reqs = s.reqs := rfl
@[simp] theorem raise_hdrAns (e : ErrorKind) (s : State) : (raise e s).hdrAns = s.hdrAns := rfl
@[simp] theorem raise_pxAns (e : ErrorKind) (s : State) : (raise e s).pxAns = s.pxAns := rfl
@[simp] theorem raise_chAns (e : ErrorKind) (s : State) : (raise e s).chAns = s.chAns := rfl
@[simp] theorem raise_ch (e : ErrorKind) (s : State) : (raise e s).ch = s.ch := rfl

/-! ## `beginOperation` -/

@[simp] theorem beginOperation_cfg (s : State) : (beginOperation s).cfg = s.cfg := rfl
@[simp] theorem beginOperation_phase (s : State) : (beginOperation s).phase = s.phase := rfl
@[simp] theorem beginOperation_res (s : State) : (beginOperation s).res = s.res := rfl
@[simp] theorem beginOperation_just (s : State) : (beginOperation s).just = s.just := rfl
@[simp] theorem beginOperation_w (s : State) : (beginOperation s).w = s.w := rfl
@[simp] theorem beginOperation_h (s : State) : (beginOperation s).h = s.h := rfl
@[simp] theorem beginOperation_rowh (s : State) : (beginOperation s).rowh = s.rowh := rfl
@[simp] theorem beginOperation_cols (s : State) : (beginOperation s).cols = s.cols := rfl
@[simp] theorem beginOperation_nbytes (s : State) : (beginOperation s).nbytes = s.nbytes := rfl
@[simp] theorem beginOperation_pad (s : State) : (beginOperation s).pad = s.pad := rfl
@[simp] theorem beginOperation_dens (s : State) : (beginOperation s).dens = s.dens := rfl
@[simp] theorem beginOperation_pitch (s : State) : (beginOperation s).pitch = s.pitch := rfl
@[simp] theorem beginOperation_y (s : State) : (beginOperation s).y = s.y := rfl
@[simp] theorem beginOperation_i (s : State) : (beginOperation s).i = s.i := rfl
@[simp] theorem beginOperation_x (s : State) : (beginOperation s).x = s.x := rfl
@[simp] theorem beginOperation_k (s : State) : (beginOperation s).k = s.k := rfl
@[simp] theorem beginOperation_fd (s : State) : (beginOperation s).fd = s.fd := rfl
@[simp] theorem beginOperation_errcode (s : State) : (beginOperation s).errcode = 0 := rfl
@[simp] theorem beginOperation_errlog (s : State) : (beginOperation s).errlog = s.errlog := rfl
@[simp] theorem beginOperation_buf (s : State) : (beginOperation s).buf = s.buf := rfl
@[simp] theorem beginOperation_out (s : State) : (beginOperation s).out = [] := rfl
@[simp] theorem beginOperation_npx (s : State) : (beginOperation s).npx = 0 := rfl
@[simp] theorem beginOperation_rst (s : State) : (beginOperation s).rst = s.rst := rfl
@[simp] theorem beginOperation_reqs (s : State) : (beginOperation s).reqs = s.reqs := rfl
@[simp] theorem beginOperation_hdrAns (s : State) : (beginOperation s).hdrAns = s.hdrAns := rfl
@[simp] theorem beginOperation_pxAns (s : State) : (beginOperation s).pxAns = s.pxAns := rfl
@[simp] theorem beginOperation_chAns (s : State) : (beginOperation s).chAns = s.chAns := rfl
@[simp] theorem beginOperation_ch (s : State) : (beginOperation s).ch = s.ch := rfl

/-! ## `latchFrame` -/

@[simp] theorem latchFrame_cfg (fd : FrameDesc) (s : State) : (latchFrame fd s).cfg = s.cfg := rfl
@[simp] theorem latchFrame_phase (fd : FrameDesc) (s : State) : (latchFrame fd s).phase = .frame := rfl
@[simp] theorem latchFrame_res (fd : FrameDesc) (s : State) : (latchFrame fd s).res = s.res := rfl
@[simp] theorem latchFrame_just (fd : FrameDesc) (s : State) : (latchFrame fd s).just = s.just := rfl
@[simp] theorem latchFrame_w (fd : FrameDesc) (s : State) : (latchFrame fd s).w = s.w := rfl
@[simp] theorem latchFrame_h (fd : FrameDesc) (s : State) : (latchFrame fd s).h = s.h := rfl
@[simp] theorem latchFrame_rowh (fd : FrameDesc) (s : State) : (latchFrame fd s).rowh = s.rowh := rfl
@[simp] theorem latchFrame_cols (fd : FrameDesc) (s : State) : (latchFrame fd s).cols = s.cols := rfl
@[simp] theorem latchFrame_nbytes (fd : FrameDesc) (s : State) : (latchFrame fd s).nbytes = s.nbytes := rfl
@[simp] theorem latchFrame_pad (fd : FrameDesc) (s : State) : (latchFrame fd s).pad = s.pad := rfl
@[simp] theorem latchFrame_dens (fd : FrameDesc) (s : State) : (latchFrame fd s).dens = s.dens := rfl
@[simp] theorem latchFrame_pitch (fd : FrameDesc) (s : State) : (latchFrame fd s).pitch = s.pitch := rfl
@[simp] theorem latchFrame_y (fd : FrameDesc) (s : State) : (latchFrame fd s).y = s.y := rfl
@[simp] theorem latchFrame_i (fd : FrameDesc) (s : State) : (latchFrame fd s).i = s.i := rfl
@[simp] theorem latchFrame_x (fd : FrameDesc) (s : State) : (latchFrame fd s).x = s.x := rfl
@[simp] theorem latchFrame_k (fd : FrameDesc) (s : State) : (latchFrame fd s).k = 0 := rfl
@[simp] theorem latchFrame_fd (fd : FrameDesc) (s : State) : (latchFrame fd s).fd = fd := rfl
@[simp] theorem latchFrame_errcode (fd : FrameDesc) (s : State) : (latchFrame fd s).errcode = 0 := rfl
@[simp] theorem latchFrame_errlog (fd : FrameDesc) (s : State) : (latchFrame fd s).errlog = s.errlog := rfl
@[simp] theorem latchFrame_buf (fd : FrameDesc) (s : State) : (latchFrame fd s).buf = s.buf := rfl
@[simp] theorem latchFrame_out (fd : FrameDesc) (s : State) : (latchFrame fd s).out = [] := rfl
@[simp] theorem latchFrame_npx (fd : FrameDesc) (s : State) : (latchFrame fd s).npx = 0 := rfl
@[simp] theorem latchFrame_rst (fd : FrameDesc) (s : State) : (latchFrame fd s).rst = s.rst := rfl
@[simp] theorem latchFrame_reqs (fd : FrameDesc) (s : State) : (latchFrame fd s).reqs = s.reqs := rfl
@[simp] theorem latchFrame_hdrAns (fd : FrameDesc) (s : State) : (latchFrame fd s).hdrAns = s.hdrAns := rfl
@[simp] theorem latchFrame_pxAns (fd : FrameDesc) (s : State) : (latchFrame fd s).pxAns = s.pxAns := rfl
@[simp] theorem latchFrame_chAns (fd : FrameDesc) (s : State) : (latchFrame fd s).chAns = s.chAns := rfl
@[simp] theorem latchFrame_ch (fd : FrameDesc) (s : State) : (latchFrame fd s).ch = s.ch := rfl

/-! ## `latchEncode` -/

@[simp] theorem latchEncode_cfg (r j : Byte) (s : State) : (latchEncode r j s).cfg = s.cfg := rfl
@[simp] theorem latchEncode_phase (r j : Byte) (s : State) : (latchEncode r j s).phase = .check := rfl
@[simp] theorem latchEncode_res (r j : Byte) (s : State) : (latchEncode r j s).res = r := rfl
@[simp] theorem latchEncode_just (r j : Byte) (s : State) : (latchEncode r j s).just = j := rfl
@[simp] theorem latchEncode_w (r j : Byte) (s : State) : (latchEncode r j s).w = s.w := rfl
@[simp] theorem latchEncode_h (r j : Byte) (s : State) : (latchEncode r j s).h = s.h := rfl
@[simp] theorem latchEncode_rowh (r j : Byte) (s : State) : (latchEncode r j s).rowh = s.rowh := rfl
@[simp] theorem latchEncode_cols (r j : Byte) (s : State) : (latchEncode r j s).cols = s.cols := rfl
@[simp] theorem latchEncode_nbytes (r j : Byte) (s : State) : (latchEncode r j s).nbytes = s.nbytes := rfl
@[simp] theorem latchEncode_pad (r j : Byte) (s : State) : (latchEncode r j s).pad = s.pad := rfl
@[simp] theorem latchEncode_dens (r j : Byte) (s : State) : (latchEncode r j s).dens = s.dens := rfl
@[simp] theorem latchEncode_pitch (r j : Byte) (s : State) : (latchEncode r j s).pitch = s.pitch := rfl
@[simp] theorem latchEncode_y (r j : Byte) (s : State) : (latchEncode r j s).y = s.y := rfl
@[simp] theorem latchEncode_i (r j : Byte) (s : State) : (latchEncode r j s).i = s.i := rfl
@[simp] theorem latchEncode_x (r j : Byte) (s : State) : (latchEncode r j s).x = s.x := rfl
@[simp] theorem latchEncode_k (r j : Byte) (s : State) : (latchEncode r j s).k = s.k := rfl
@[simp] theorem latchEncode_fd (r j : Byte) (s : State) : (latchEncode r j s).fd = s.fd := rfl
@[simp] theorem latchEncode_errcode (r j : Byte) (s : State) : (latchEncode r j s).errcode = 0 := rfl
@[simp] theorem latchEncode_errlog (r j : Byte) (s : State) : (latchEncode r j s).errlog = s.errlog := rfl
@[simp] theorem latchEncode_buf (r j : Byte) (s : State) : (latchEncode r j s).buf = s.buf := rfl
@[simp] theorem latchEncode_out (r j : Byte) (s : State) : (latchEncode r j s).out = [] := rfl
@[simp] theorem latchEncode_npx (r j : Byte) (s : State) : (latchEncode r j s).npx = 0 := rfl
@[simp] theorem latchEncode_rst (r j : Byte) (s : State) : (latchEncode r j s).rst = s.rst := rfl
@[simp] theorem latchEncode_reqs (r j : Byte) (s : State) : (latchEncode r j s).reqs = s.reqs := rfl
@[simp] theorem latchEncode_hdrAns (r j : Byte) (s : State) : (latchEncode r j s).hdrAns = s.hdrAns := rfl
@[simp] theorem latchEncode_pxAns (r j : Byte) (s : State) : (latchEncode r j s).pxAns = s.pxAns := rfl
@[simp] theorem latchEncode_chAns (r j : Byte) (s : State) : (latchEncode r j s).chAns = s.chAns := rfl
@[simp] theorem latchEncode_ch (r j : Byte) (s : State) : (latchEncode r j s).ch = s.ch := rfl

/-! ## `latchImage` -/

@[simp] theorem latchImage_cfg (w h : Nat) (s : State) : (latchImage w h s).cfg = s.cfg := rfl
@[simp] theorem latchImage_phase (w h : Nat) (s : State) : (latchImage w h s).phase = .setup := rfl
@[simp] theorem latchImage_res (w h : Nat) (s : State) : (latchImage w h s).res = s.res := rfl
@[simp] theorem latchImage_just (w h : Nat) (s : State) : (latchImage w h s).just = s.just := rfl
@[simp] theorem latchImage_w (w h : Nat) (s : State) : (latchImage w h s).w = w := rfl
@[simp] theorem latchImage_h (w h : Nat) (s : State) : (latchImage w h s).h = h := rfl
@[simp] theorem latchImage_rowh (w h : Nat) (s : State) : (latchImage w h s).rowh = rowhOf s.res := rfl
@[simp] theorem latchImage_cols (w h : Nat) (s : State) : (latchImage w h s).cols = idw s.cfg s.res w := rfl
@[simp] theorem latchImage_nbytes (w h : Nat) (s : State) : (latchImage w h s).nbytes = w * Config.bpc := rfl
@[simp] theorem latchImage_pad (w h : Nat) (s : State) : (latchImage w h s).pad = jcalc s.cfg s.just (idw s.cfg s.res w) := rfl
@[simp] theorem latchImage_dens (w h : Nat) (s : State) : (latchImage w h s).dens = densOf s.cfg s.res := rfl
@[simp] theorem latchImage_pitch (w h : Nat) (s : State) : (latchImage w h s).pitch = pitchOf s.cfg s.res := rfl
@[simp] theorem latchImage_y (w h : Nat) (s : State) : (latchImage w h s).y = 0 := rfl
@[simp] theorem latchImage_i (w h : Nat) (s : State) : (latchImage w h s).i = s.i := rfl
@[simp] theorem latchImage_x (w h : Nat) (s : State) : (latchImage w h s).x = s.x := rfl
@[simp] theorem latchImage_k (w h : Nat) (s : State) : (latchImage w h s).k = 0 := rfl
@[simp] theorem latchImage_fd (w h : Nat) (s : State) : (latchImage w h s).fd = s.fd := rfl
@[simp] theorem latchImage_errcode (w h : Nat) (s : State) : (latchImage w h s).errcode = s.errcode := rfl
@[simp] theorem latchImage_errlog (w h : Nat) (s : State) : (latchImage w h s).errlog = s.errlog := rfl
@[simp] theorem latchImage_buf (w h : Nat) (s : State) : (latchImage w h s).buf = s.buf := rfl
@[simp] theorem latchImage_out (w h : Nat) (s : State) : (latchImage w h s).out = s.out := rfl
@[simp] theorem latchImage_npx (w h : Nat) (s : State) : (latchImage w h s).npx = s.npx := rfl
@[simp] theorem latchImage_rst (w h : Nat) (s : State) : (latchImage w h s).rst = s.rst := rfl
@[simp] theorem latchImage_reqs (w h : Nat) (s : State) : (latchImage w h s).reqs = s.reqs := rfl
@[simp] theorem latchImage_hdrAns (w h : Nat) (s : State) : (latchImage w h s).hdrAns = s.hdrAns := rfl
@[simp] theorem latchImage_pxAns (w h : Nat) (s : State) : (latchImage w h s).pxAns = s.pxAns := rfl
@[simp] theorem latchImage_chAns (w h : Nat) (s : State) : (latchImage w h s).chAns = s.chAns := rfl
@[simp] theorem latchImage_ch (w h : Nat) (s : State) : (latchImage w h s).ch = s.ch := rfl

/-! ## `startBand` -/

@[simp] theorem startBand_cfg (s : State) : (startBand s).cfg = s.cfg := rfl
@[simp] theorem startBand_phase (s : State) : (startBand s).phase = .fill := rfl
@[simp] theorem startBand_res (s : State) : (startBand s).res = s.res := rfl
@[simp] theorem startBand_just (s : State) : (startBand s).just = s.just := rfl
@[simp] theorem startBand_w (s : State) : (startBand s).w = s.w := rfl
@[simp] theorem startBand_h (s : State) : (startBand s).h = s.h := rfl
@[simp] theorem startBand_rowh (s : State) : (startBand s).rowh = s.rowh := rfl
@[simp] theorem startBand_cols (s : State) : (startBand s).cols = s.cols := rfl
@[simp] theorem startBand_nbytes (s : State) : (startBand s).nbytes = s.nbytes := rfl
@[simp] theorem startBand_pad (s : State) : (startBand s).pad = s.pad := rfl
@[simp] theorem startBand_dens (s : State) : (startBand s).dens = s.dens := rfl
@[simp] theorem startBand_pitch (s : State) : (startBand s).pitch = s.pitch := rfl
@[simp] theorem startBand_y (s : State) : (startBand s).y = s.y := rfl
@[simp] theorem startBand_i (s : State) : (startBand s).i = 0 := rfl
@[simp] theorem startBand_x (s : State) : (startBand s).x = 0 := rfl
@[simp] theorem startBand_k (s : State) : (startBand s).k = s.k := rfl
@[simp] theorem startBand_fd (s : State) : (startBand s).fd = s.fd := rfl
@[simp] theorem startBand_errcode (s : State) : (startBand s).errcode = s.errcode := rfl
@[simp] theorem startBand_errlog (s : State) : (startBand s).errlog = s.errlog := rfl
@[simp] theorem startBand_buf (s : State) : (startBand s).buf = s.buf.clearBelow (min s.nbytes s.cfg.bufBytes) := rfl
@[simp] theorem startBand_out (s : State) : (startBand s).out = s.out := rfl
@[simp] theorem startBand_npx (s : State) : (startBand s).npx = s.npx := rfl
@[simp] theorem startBand_rst (s : State) : (startBand s).rst = s.rst := rfl
@[simp] theorem startBand_reqs (s : State) : (startBand s).reqs = s.reqs := rfl
@[simp] theorem startBand_hdrAns (s : State) : (startBand s).hdrAns = s.hdrAns := rfl
@[simp] theorem startBand_pxAns (s : State) : (startBand s).pxAns = s.pxAns := rfl
@[simp] theorem startBand_chAns (s : State) : (startBand s).chAns = s.chAns := rfl
@[simp] theorem startBand_ch (s : State) : (startBand s).ch = s.ch := rfl

/-! ## `applyReset` -/

@[simp] theorem applyReset_cfg (s : State) : (applyReset s).cfg = s.cfg := rfl
@[simp] theorem applyReset_phase (s : State) : (applyReset s).phase = State.reset.phase := rfl
@[simp] theorem applyReset_res (s : State) : (applyReset s).res = State.reset.res := rfl
@[simp] theorem applyReset_just (s : State) : (applyReset s).just = State.reset.just := rfl
@[simp] theorem applyReset_w (s : State) : (applyReset s).w = State.reset.w := rfl
@[simp] theorem applyReset_h (s : State) : (applyReset s).h = State.reset.h := rfl
@[simp] theorem applyReset_rowh (s : State) : (applyReset s).rowh = State.reset.rowh := rfl
@[simp] theorem applyReset_cols (s : State) : (applyReset s).cols = State.reset.cols := rfl
@[simp] theorem applyReset_nbytes (s : State) : (applyReset s).nbytes = State.reset.nbytes := rfl
@[simp] theorem applyReset_pad (s : State) : (applyReset s).pad = State.reset.pad := rfl
@[simp] theorem applyReset_dens (s : State) : (applyReset s).dens = State.reset.dens := rfl
@[simp] theorem applyReset_pitch (s : State) : (applyReset s).pitch = State.reset.pitch := rfl
@[simp] theorem applyReset_y (s : State) : (applyReset s).y = State.reset.y := rfl
@[simp] theorem applyReset_i (s : State) : (applyReset s).i = State.reset.i := rfl
@[simp] theorem applyReset_x (s : State) : (applyReset s).x = State.reset.x := rfl
@[simp] theorem applyReset_k (s : State) : (applyReset s).k = State.reset.k := rfl
@[simp] theorem applyReset_fd (s : State) : (applyReset s).fd = State.reset.fd := rfl
@[simp] theorem applyReset_errcode (s : State) : (applyReset s).errcode = State.reset.errcode := rfl
@[simp] theorem applyReset_errlog (s : State) : (applyReset s).errlog = State.reset.errlog := rfl
@[simp] theorem applyReset_buf (s : State) : (applyReset s).buf = State.reset.buf := rfl
@[simp] theorem applyReset_out (s : State) : (applyReset s).out = State.reset.out := rfl
@[simp] theorem applyReset_npx (s : State) : (applyReset s).npx = State.reset.npx := rfl
@[simp] theorem applyReset_rst (s : State) : (applyReset s).rst = false := rfl
@[simp] theorem applyReset_reqs (s : State) : (applyReset s).reqs = s.reqs := rfl
@[simp] theorem applyReset_hdrAns (s : State) : (applyReset s).hdrAns = s.hdrAns := rfl
@[simp] theorem applyReset_pxAns (s : State) : (applyReset s).pxAns = s.pxAns := rfl
@[simp] theorem applyReset_chAns (s : State) : (applyReset s).chAns = s.chAns := rfl
@[simp] theorem applyReset_ch (s : State) : (applyReset s).ch = s.ch := rfl

end Sys2Proof.Machine
end

