-- ==== Sys2Proof/Laws/Ops.lean ====
section
/-! SUPPORT. For each shared operation, one lemma that says everything it can answer; later proofs cite these instead of
unfolding the operation. -/

namespace Sys2Proof.Machine

/-! ## Operands -/

/-- `parFits` is the bound of R231. -/
theorem parFits_iff (par : List Byte) (n : Nat) : parFits par n = true ↔ par.length ≤ n := by
  induction par generalizing n with
  | nil => simp [parFits]
  | cons b par ih => cases n <;> simp [parFits, ih]

/-- The frame of a descriptor has `2 + npar + zt` bytes (R93, R232). -/
theorem frameBytes_length (c : Config) (fd : FrameDesc) :
    (frameBytes c fd).length = 2 + fd.par.length + fd.zt.toNat := by
  cases h : fd.zt <;> simp [frameBytes, h] <;> omega

@[simp] theorem lspBytes_length (c : Config) (n : Byte) : (lspBytes c n).length = 3 := rfl

@[simp] theorem lspdBytes_length (c : Config) : (lspdBytes c).length = 2 := rfl

@[simp] theorem trailerBytes_length (c : Config) : (trailerBytes c).length = 2 := rfl

@[simp] theorem bimgHeader_length (c : Config) (m : Byte) (cols : BitVec 16) : (bimgHeader c m cols).length = 5 := rfl

/-- `BUSY` is 0 exactly in the three quiescent phases (R28). -/
theorem busy_eq_false_iff (s : State) : s.busy = false ↔ s.phase = .idle ∨ s.phase = .done ∨ s.phase = .err := by
  unfold State.busy
  cases s.phase <;> simp [Phase.quiescent]

/-- What well-formedness says of a configuration (R7). -/
theorem Config_wf_iff (c : Config) :
    c.wf = true ↔ c.limitLow ≤ c.deviceWidth ∧ c.limitHigh ≤ c.deviceWidth ∧ 1 ≤ c.padUnit ∧
      c.hrepHigh = 1 ∧ c.limitLow ≤ c.bufBytes ∧ 3 * c.limitHigh ≤ c.bufBytes ∧ c.frameMax ≠ 0 := by
  simp only [Config.wf, Bool.and_eq_true, decide_eq_true_eq, and_assoc]
  exact Iff.rfl

/-- `IDW` counts the column three times in Low mode, once in High mode (R150, R7). -/
theorem idw_eq {c : Config} (hc : c.wf = true) (res : Byte) (w : Nat) : idw c res w = if res = 0 then w * 3 else w := by
  simp [idw, Config.hrepLow, ((Config_wf_iff c).1 hc).2.2.2.1]

/-- All START checks pass (R156). -/
theorem precheck_pass_iff (c : Config) (res just : Byte) (w h : Nat) :
    precheck c res just w h = .pass ↔ 1 ≤ w ∧ 1 ≤ h ∧ validRes res = true ∧ validJust just = true ∧
      idw c res w ≤ limitOf c res ∧ h < 2 ^ c.dimBits := by
  unfold precheck
  split_ifs with h1 h2 h3 h4 h5
  · simp; omega
  · simp [h2]
  · simp [h3]
  · simp; omega
  · simp; omega
  · simp only [Bool.not_eq_false] at h2 h3
    simp only [h2, h3, true_iff, true_and]
    omega

/-! ## Transactions -/

/-- Everything `ChPut` can answer. -/
theorem chPut_cases (b : Byte) (cont : State → State) (s : State) :
    (s.chAns = [] ∧ chPut b cont s = .next s) ∨
    (∃ as, s.chAns = .ok :: as ∧
      chPut b cont s = .next (cont { s with chAns := as, out := s.out ++ [b], ch := s.ch ++ [b] })) ∨
    (∃ as, s.chAns = .chFail :: as ∧ chPut b cont s = .next (raise .ioError { s with chAns := as })) := by
  unfold chPut
  cases h : s.chAns with
  | nil => exact .inl ⟨rfl, rfl⟩
  | cons a as =>
    cases a with
    | ok => exact .inr (.inl ⟨as, rfl, rfl⟩)
    | chFail => exact .inr (.inr ⟨as, rfl, rfl⟩)

/-- `ChPut` answered `ok`. -/
theorem chPut_ok {s : State} {as : List ChAnswer} (b : Byte) (cont : State → State) (h : s.chAns = .ok :: as) :
    chPut b cont s = .next (cont { s with chAns := as, out := s.out ++ [b], ch := s.ch ++ [b] }) := by
  simp [chPut, h]

/-- `ChPut` answered `ch_fail`. -/
theorem chPut_fail {s : State} {as : List ChAnswer} (b : Byte) (cont : State → State) (h : s.chAns = .chFail :: as) :
    chPut b cont s = .next (raise .ioError { s with chAns := as }) := by
  simp [chPut, h]

/-- Everything `SrcHdr` can lead to. -/
theorem srcHdr_cases (cont : Nat → Nat → State → Result) (s : State) :
    (s.hdrAns = [] ∧ srcHdr cont s = .next s) ∨
    (∃ w h as, s.hdrAns = .hdr w h :: as ∧ srcHdr cont s = cont w h { s with hdrAns := as }) ∨
    (∃ as, s.hdrAns = .formatErr :: as ∧ srcHdr cont s = .next (raise .formatError { s with hdrAns := as })) ∨
    (∃ as, s.hdrAns = .ioErr :: as ∧ srcHdr cont s = .next (raise .ioError { s with hdrAns := as })) := by
  unfold srcHdr
  cases ha : s.hdrAns with
  | nil => exact .inl ⟨rfl, rfl⟩
  | cons a as =>
    cases a with
    | hdr w h => exact .inr (.inl ⟨w, h, as, rfl, rfl⟩)
    | formatErr => exact .inr (.inr (.inl ⟨as, rfl, rfl⟩))
    | ioErr => exact .inr (.inr (.inr ⟨as, rfl, rfl⟩))

/-- Everything `SrcNext` can lead to. -/
theorem srcNext_cases (cont : Bool → State → Result) (s : State) :
    (s.pxAns = [] ∧ srcNext cont s = .next s) ∨
    (∃ p as, s.pxAns = .px p :: as ∧ srcNext cont s = cont p { s with pxAns := as, npx := s.npx + 1 }) ∨
    (∃ as, s.pxAns = .eof :: as ∧ srcNext cont s = .next (raise .formatError { s with pxAns := as })) ∨
    (∃ as, s.pxAns = .srcFail :: as ∧ srcNext cont s = .next (raise .ioError { s with pxAns := as })) := by
  unfold srcNext
  cases h : s.pxAns with
  | nil => exact .inl ⟨rfl, rfl⟩
  | cons a as =>
    cases a with
    | px p => exact .inr (.inl ⟨p, as, rfl, rfl⟩)
    | eof => exact .inr (.inr (.inl ⟨as, rfl, rfl⟩))
    | srcFail => exact .inr (.inr (.inr ⟨as, rfl, rfl⟩))

/-- What follows a byte written by `emitByte`. -/
def afterByte (n : Nat) (finish : State → State) (t : State) : State :=
  if t.k + 1 = n then finish { t with k := t.k + 1 } else { t with k := t.k + 1 }

/-- `emitByte` at a byte of the frame is the `ChPut` of that byte. -/
theorem emitByte_eq {bs : List Byte} {s : State} {b : Byte} (finish : State → State) (h : bs[s.k]? = some b) :
    emitByte bs finish s = chPut b (afterByte bs.length finish) s := by
  unfold emitByte
  rw [h]
  rfl

/-- Everything `emitByte` can answer with a next state. -/
theorem emitByte_next {bs : List Byte} {finish : State → State} {s t : State} (h : emitByte bs finish s = .next t) :
    ∃ b, bs[s.k]? = some b ∧
      ((s.chAns = [] ∧ t = s) ∨
       (∃ as, s.chAns = .ok :: as ∧
         t = afterByte bs.length finish { s with chAns := as, out := s.out ++ [b], ch := s.ch ++ [b] }) ∨
       (∃ as, s.chAns = .chFail :: as ∧ t = raise .ioError { s with chAns := as })) := by
  cases hb : bs[s.k]? with
  | none => simp [emitByte, hb] at h
  | some b =>
    rw [emitByte_eq finish hb] at h
    refine ⟨b, rfl, ?_⟩
    rcases chPut_cases b (afterByte bs.length finish) s with ⟨h1, h2⟩ | ⟨as, h1, h2⟩ | ⟨as, h1, h2⟩ <;>
      rw [h2] at h <;> injection h with h
    · exact .inl ⟨h1, h.symm⟩
    · exact .inr (.inl ⟨as, h1, h.symm⟩)
    · exact .inr (.inr ⟨as, h1, h.symm⟩)

/-! ## Requests -/

/-- A request on a quiescent machine with a well-formed configuration is accepted. -/
theorem whenIdle_accepts {s : State} (accept : State → Result) (hb : s.busy = false) (hc : s.cfg.wf = true) :
    whenIdle accept s = accept s := by
  simp [whenIdle, hb, hc]

/-- A request on a busy machine changes nothing (R201). -/
theorem whenIdle_busy {s : State} (accept : State → Result) (hb : s.busy = true) : whenIdle accept s = .next s := by
  simp [whenIdle, hb]

/-- Everything a `FRAME` request can answer with a next state. -/
theorem requestFrame_next {fd : FrameDesc} {s t : State} (h : requestFrame fd s = .next t) :
    (s.busy = true ∧ t = s) ∨
    (s.busy = false ∧ s.cfg.wf = true ∧ fd.par.length ≤ s.cfg.frameMax ∧ t = latchFrame fd s) := by
  unfold requestFrame whenIdle at h
  split at h
  · next hb => exact .inl ⟨hb, by injection h with h; exact h.symm⟩
  · next hb =>
    split at h
    · next hc =>
      dsimp only at h
      split at h
      · next hf => exact .inr ⟨by simpa using hb, hc, (parFits_iff _ _).1 hf, by injection h with h; exact h.symm⟩
      · cases h
    · cases h

/-- A `FRAME` request that fits is accepted on a quiescent machine (R231). -/
theorem requestFrame_accepts {fd : FrameDesc} {s : State} (hb : s.busy = false) (hc : s.cfg.wf = true)
    (hf : fd.par.length ≤ s.cfg.frameMax) : requestFrame fd s = .next (latchFrame fd s) := by
  simp [requestFrame, whenIdle_accepts _ hb hc, (parFits_iff _ _).2 hf]

/-! ## Tiler -/

/-- Everything `PACK` can do when it completes (R176). -/
theorem pack_ok {x i : Nat} {p : Bool} {s t : State} :
    pack x i p s = .ok t ↔ packAddr x i < s.cfg.bufBytes ∧ ∃ old, s.buf.read (packAddr x i) = some old ∧
      t = { s with buf := s.buf.write (packAddr x i) (packByte old i p) } := by
  unfold pack
  constructor
  · intro h
    split at h
    · cases h
    · next old ho =>
      obtain ⟨h1, h2⟩ := memRead_ok.1 ho
      exact ⟨h1, old, h2, (memWrite_ok.1 h).2⟩
  · rintro ⟨h1, old, h2, rfl⟩
    rw [memRead_ok.2 ⟨h1, h2⟩]
    exact memWrite_ok.2 ⟨h1, rfl⟩

/-- Everything `REPL3` of a column can do when it completes (R181). -/
theorem replicate_ok {x : Nat} {s t : State} :
    replicate x s = .ok t ↔ 3 * x + 2 < s.cfg.bufBytes ∧ ∃ v, s.buf.read (3 * x) = some v ∧
      t = { s with buf := (s.buf.write (3 * x + 1) v).write (3 * x + 2) v } := by
  unfold replicate Config.bpc
  constructor
  · intro h
    split at h
    · cases h
    · next v hv =>
      split at h
      · cases h
      · next u hu =>
        obtain ⟨-, h2⟩ := memRead_ok.1 hv
        obtain ⟨-, rfl⟩ := memWrite_ok.1 hu
        obtain ⟨h3, rfl⟩ := memWrite_ok.1 h
        exact ⟨h3, v, h2, rfl⟩
  · rintro ⟨h1, v, h2, rfl⟩
    rw [memRead_ok.2 ⟨by omega, h2⟩]
    have hw : memWrite s (3 * x + 1) v = .ok { s with buf := s.buf.write (3 * x + 1) v } :=
      memWrite_ok.2 ⟨by omega, rfl⟩
    simp only [hw]
    exact memWrite_ok.2 ⟨h1, rfl⟩

end Sys2Proof.Machine
end

