-- ==== Sys2Proof/Laws/PerInstr.lean ====
section
/-! SUPPORT. Statements about every instruction as syntax, one lemma per constructor. -/

namespace Sys2Proof.Laws.WireLength

/-- How many wire bytes an instruction has: a request record none of its own (R93, R232 for the frame `FRAME` emits), 2 for
`F2`, 3 for `F3`, 3 and the payload and its terminator for `FZ`, 5 and the band for `FB` (R95 to R101). -/
def expected : Instr → Nat
  | .encode _ _ => 0
  | .frame _ _ par zt => 2 + par.length + zt.toNat
  | .lsp _ => 3
  | .lspd => 2
  | .bimg _ _ d => 5 + d.length
  | .buzz => 2
  | .pcut => 3
  | .ul _ => 3
  | .chsz _ _ => 3
  | .font _ => 3
  | .dblp _ => 3
  | .emph _ => 3
  | .inv _ => 3
  | .mirr _ => 3
  | .rot _ => 3
  | .bcw _ => 3
  | .bch _ => 3
  | .bctp _ => 3
  | .bcode _ s => 4 + s.length
  | .padrun pad => pad

/-- Under every configuration the wire bytes of the instruction are as many as its format says. -/
def Statement (i : Instr) : Prop := ∀ c : Config, (wireBytes c i).length = expected i

theorem encode (r j : Byte) : Statement (.encode r j) := fun _ => rfl

theorem frame (pfx : Pfx) (code : Byte) (par : List Byte) (zt : Bool) : Statement (.frame pfx code par zt) := by
  intro c; cases zt <;> simp [wireBytes, expected] <;> omega

theorem lsp (n : Byte) : Statement (.lsp n) := fun _ => rfl

theorem lspd : Statement .lspd := fun _ => rfl

theorem bimg (m : Byte) (cols : BitVec 16) (d : List Byte) : Statement (.bimg m cols d) := by
  intro c; simp [wireBytes, expected]; omega

theorem buzz : Statement .buzz := fun _ => rfl

theorem pcut : Statement .pcut := fun _ => rfl

theorem ul (m : Byte) : Statement (.ul m) := fun _ => rfl

theorem chsz (hmag vmag : Nat) : Statement (.chsz hmag vmag) := fun _ => rfl

theorem font (m : Byte) : Statement (.font m) := fun _ => rfl

theorem dblp (m : Byte) : Statement (.dblp m) := fun _ => rfl

theorem emph (m : Byte) : Statement (.emph m) := fun _ => rfl

theorem inv (m : Byte) : Statement (.inv m) := fun _ => rfl

theorem mirr (m : Byte) : Statement (.mirr m) := fun _ => rfl

theorem rot (m : Byte) : Statement (.rot m) := fun _ => rfl

theorem bcw (v : Byte) : Statement (.bcw v) := fun _ => rfl

theorem bch (v : Byte) : Statement (.bch v) := fun _ => rfl

theorem bctp (v : Byte) : Statement (.bctp v) := fun _ => rfl

theorem bcode (m : Byte) (s : List Byte) : Statement (.bcode m s) := by
  intro c; simp [wireBytes, expected]; omega

theorem padrun (pad : Nat) : Statement (.padrun pad) := by intro c; simp [wireBytes, expected]

end Sys2Proof.Laws.WireLength
end

