-- ==== Sys2Proof/Laws/Step.lean ====
section
/-! SUPPORT. What one step of MRE can do, said once: `step_cases`. Every invariant is then a case analysis over `StepCase`.
With it, the step written out for each phase. -/

namespace Sys2Proof.Machine

/-! ## The step, phase by phase -/

/-- The reset wire acts before anything else (R322). -/
theorem step_reset {s : State} (h : s.rst = true) : step s = .next (applyReset s) := by simp [step, h]

theorem step_check {s : State} (hr : s.rst = false) (hp : s.phase = .check) : step s = checkStep s := by
  simp [step, hr, hp]

theorem step_setup {s : State} (hr : s.rst = false) (hp : s.phase = .setup) : step s = setupStep s := by
  simp [step, hr, hp]

theorem step_fill {s : State} (hr : s.rst = false) (hp : s.phase = .fill) : step s = fillStep s := by
  simp [step, hr, hp]

theorem step_repl {s : State} (hr : s.rst = false) (hp : s.phase = .repl) : step s = replStep s := by
  simp [step, hr, hp]

theorem step_padout {s : State} (hr : s.rst = false) (hp : s.phase = .padout) :
    step s = if s.k < s.pad then chPut s.cfg.sp (fun t => { t with k := t.k + 1 }) s
      else .next { s with k := 0, phase := .hdr } := by
  simp [step, hr, hp, exec, execPadrun]

theorem step_hdr {s : State} (hr : s.rst = false) (hp : s.phase = .hdr) :
    step s = emitByte (bimgHeader s.cfg s.dens (BitVec.ofNat 16 s.cols)) endHeader s := by
  simp [step, hr, hp, exec, execBimg, bandInstr]

theorem step_data {s : State} (hr : s.rst = false) (hp : s.phase = .data) :
    step s = emitBandByte (bandBytes s) s := by
  simp [step, hr, hp, exec, execBimg, bandInstr]

theorem step_trail {s : State} (hr : s.rst = false) (hp : s.phase = .trail) : step s = trailStep s := by
  simp [step, hr, hp]

theorem step_restore {s : State} (hr : s.rst = false) (hp : s.phase = .restore) : step s = restoreStep s := by
  simp [step, hr, hp]

theorem step_frame {s : State} (hr : s.rst = false) (hp : s.phase = .frame) : step s = frameStep s := by
  simp [step, hr, hp]

theorem step_quiescent {s : State} (hr : s.rst = false) (hb : s.busy = false) :
    step s = match fetch s with
      | .none => wait s
      | .instr i t => exec i t
      | .undecodable e => .refused (.undecodable e) := by
  rcases (busy_eq_false_iff s).1 hb with h | h | h <;> simp only [step, hr, h] <;> cases fetch s <;> rfl

/-! ## What a step can do -/

/-- The byte the present step writes, where it writes one (R205, R209, R211 to R213, R216, R232). -/
def emitted (s : State) : Option Byte :=
  match s.phase with
  | .setup => (lspBytes s.cfg s.pitch)[s.k]?
  | .padout => if s.k < s.pad then some s.cfg.sp else none
  | .hdr => (bimgHeader s.cfg s.dens (BitVec.ofNat 16 s.cols))[s.k]?
  | .data => if s.k < s.cfg.bufBytes then (bandBytes s)[s.k]? else none
  | .trail => (trailerBytes s.cfg)[s.k]?
  | .restore => (lspdBytes s.cfg)[s.k]?
  | .frame => (frameBytes s.cfg s.fd)[s.k]?
  | .idle | .check | .fill | .repl | .done | .err => none

/-- What follows a byte that was written, by phase. -/
def afterSend (s : State) : State :=
  match s.phase with
  | .setup => afterByte 3 startBand s
  | .padout => { s with k := s.k + 1 }
  | .hdr => afterByte 5 endHeader s
  | .data => advanceData s
  | .trail => afterByte 2 advanceBand s
  | .restore => afterByte 2 (fun t => { t with phase := .done }) s
  | .frame => afterByte (frameBytes s.cfg s.fd).length (fun t => { t with phase := .done }) s
  | .idle | .check | .fill | .repl | .done | .err => s

/-- The ways a step can end in a next state. -/
inductive StepCase (s : State) : State → Prop where
  | reset (h : s.rst = true) : StepCase s (applyReset s)
  | waits (hr : s.rst = false) (hw : Waiting s) : StepCase s s
  | acceptEncode {q : Request} {rest : List Request} {r j : Byte} (hr : s.rst = false) (hb : s.busy = false)
      (hc : s.cfg.wf = true) (hq : s.reqs = q :: rest) (hd : decode s.cfg q = .ok (.encode r j)) :
      StepCase s (latchEncode r j { s with reqs := rest })
  | acceptFrame {q : Request} {rest : List Request} {i : Instr} {fd : FrameDesc} (hr : s.rst = false)
      (hb : s.busy = false) (hc : s.cfg.wf = true) (hq : s.reqs = q :: rest) (hd : decode s.cfg q = .ok i)
      (hf : fd.par.length ≤ s.cfg.frameMax) : StepCase s (latchFrame fd { s with reqs := rest })
  | headerRaises {a : HdrAnswer} {as : List HdrAnswer} {e : ErrorKind} (hr : s.rst = false) (hp : s.phase = .check)
      (ha : s.hdrAns = a :: as)
      (he : (a = .formatErr ∧ e = .formatError) ∨ (a = .ioErr ∧ e = .ioError) ∨
        ∃ w h, a = .hdr w h ∧ precheck s.cfg s.res s.just w h = .raises e) :
      StepCase s (raise e { s with hdrAns := as })
  | headerPasses {w h : Nat} {as : List HdrAnswer} (hr : s.rst = false) (hp : s.phase = .check)
      (ha : s.hdrAns = .hdr w h :: as) (hc : precheck s.cfg s.res s.just w h = .pass) :
      StepCase s (latchImage w h { s with hdrAns := as })
  | pixelRaises {a : PxAnswer} {as : List PxAnswer} {e : ErrorKind} (hr : s.rst = false) (hp : s.phase = .fill)
      (hy : s.y + s.i < s.h) (ha : s.pxAns = a :: as)
      (he : (a = .eof ∧ e = .formatError) ∨ (a = .srcFail ∧ e = .ioError)) :
      StepCase s (raise e { s with pxAns := as })
  | pixel {p : Bool} {as : List PxAnswer} {t : State} (hr : s.rst = false) (hp : s.phase = .fill)
      (hy : s.y + s.i < s.h) (ha : s.pxAns = .px p :: as)
      (ht : pack s.x s.i p { s with pxAns := as, npx := s.npx + 1 } = .ok t) : StepCase s (advancePixel t)
  | clearPixel {t : State} (hr : s.rst = false) (hp : s.phase = .fill) (hy : s.h ≤ s.y + s.i)
      (ht : pack s.x s.i false s = .ok t) : StepCase s (advancePixel t)
  | replicates {t : State} (hr : s.rst = false) (hp : s.phase = .repl) (ht : replicate s.x s = .ok t) :
      StepCase s (advanceColumn t)
  | paddingDone (hr : s.rst = false) (hp : s.phase = .padout) (hk : s.pad ≤ s.k) :
      StepCase s { s with k := 0, phase := .hdr }
  | sent {b : Byte} {as : List ChAnswer} (hr : s.rst = false) (hb : emitted s = some b) (ha : s.chAns = .ok :: as) :
      StepCase s (afterSend { s with chAns := as, out := s.out ++ [b], ch := s.ch ++ [b] })
  | sendFails {b : Byte} {as : List ChAnswer} (hr : s.rst = false) (hb : emitted s = some b)
      (ha : s.chAns = .chFail :: as) : StepCase s (raise .ioError { s with chAns := as })

/-- An accepted instruction latches an `ENCODE` or a frame; nothing else can be accepted. -/
theorem exec_accepts {i : Instr} {s t : State} (hb : s.busy = false) (h : exec i s = .next t) :
    s.cfg.wf = true ∧ ((∃ r j, i = .encode r j ∧ t = latchEncode r j s) ∨
      ∃ fd, fd.par.length ≤ s.cfg.frameMax ∧ t = latchFrame fd s) := by
  have key : ∀ fd, requestFrame fd s = .next t →
      s.cfg.wf = true ∧ ((∃ r j, i = .encode r j ∧ t = latchEncode r j s) ∨
        ∃ fd, fd.par.length ≤ s.cfg.frameMax ∧ t = latchFrame fd s) := by
    intro fd hfd
    rcases requestFrame_next hfd with ⟨h1, -⟩ | ⟨-, h2, h3, h4⟩
    · rw [hb] at h1; cases h1
    · exact ⟨h2, .inr ⟨fd, h3, h4⟩⟩
  cases i with
  | encode r j =>
    simp only [exec, execEncode, whenIdle, hb, Bool.false_eq_true, if_false] at h
    split at h
    · next hc => exact ⟨hc, .inl ⟨r, j, rfl, by injection h with h; exact h.symm⟩⟩
    · cases h
  | frame | lsp | lspd | buzz | pcut | font | dblp | emph | inv | mirr | rot | bcw | bch | bctp => exact key _ h
  | ul | chsz | bcode =>
    simp only [exec, execUl, execChsz, execBcode] at h
    split at h
    · exact key _ h
    · cases h
  | bimg m cols d =>
    rcases (busy_eq_false_iff s).1 hb with hp | hp | hp <;> simp [exec, execBimg, hp] at h
  | padrun pad =>
    rcases (busy_eq_false_iff s).1 hb with hp | hp | hp <;> simp [exec, execPadrun, hp] at h

/-- A step that writes a byte waits, sends or fails, by the channel's answer. -/
theorem step_cases_of_send {s t : State} {b : Byte} (hr : s.rst = false) (hb : emitted s = some b)
    (hw : s.chAns = [] → Waiting s) (h : chPut b afterSend s = .next t) : StepCase s t := by
  rcases chPut_cases b afterSend s with ⟨h1, h2⟩ | ⟨as, h1, h2⟩ | ⟨as, h1, h2⟩ <;>
    rw [h2] at h <;> injection h with h <;> subst h
  · exact .waits hr (hw h1)
  · exact .sent hr hb h1
  · exact .sendFails hr hb h1

/-- The same for a step that emits a byte of a frame. -/
theorem step_cases_of_emit {s t : State} {bs : List Byte} {finish : State → State} (hr : s.rst = false)
    (he : emitted s = bs[s.k]?) (ha : ∀ u : State, u.phase = s.phase → u.cfg = s.cfg → u.fd = s.fd → u.k = s.k →
      afterByte bs.length finish u = afterSend u)
    (hw : s.chAns = [] → Waiting s) (h : emitByte bs finish s = .next t) : StepCase s t := by
  obtain ⟨b, hb, h1 | ⟨as, h1, h2⟩ | ⟨as, h1, h2⟩⟩ := emitByte_next h
  · obtain ⟨h1, rfl⟩ := h1
    exact .waits hr (hw h1)
  · rw [h2, ha { s with chAns := as, out := s.out ++ [b], ch := s.ch ++ [b] } rfl rfl rfl rfl]
    exact .sent hr (he.trans hb) h1
  · rw [h2]
    exact .sendFails hr (he.trans hb) h1

/-- Everything a step can do when it answers a next state. -/
theorem step_cases {s t : State} (h : step s = .next t) : StepCase s t := by
  cases hr : s.rst with
  | true =>
    rw [step_reset hr] at h
    injection h with h
    subst h
    exact .reset hr
  | false =>
    have quiescent : s.busy = false → StepCase s t := by
      intro hb
      rw [step_quiescent hr hb] at h
      unfold fetch at h
      cases hq : s.reqs with
      | nil =>
        simp only [hq, wait] at h
        injection h with h
        subst h
        refine .waits hr ?_
        rcases (busy_eq_false_iff s).1 hb with hp | hp | hp <;> simpa [Waiting, hp] using hq
      | cons q rest =>
        simp only [hq] at h
        cases hd : decode s.cfg q with
        | error e => simp [hd] at h
        | ok i =>
          simp only [hd] at h
          obtain ⟨hc, ⟨r, j, rfl, rfl⟩ | ⟨fd, hf, rfl⟩⟩ := exec_accepts (s := { s with reqs := rest }) hb h
          · exact .acceptEncode hr hb hc hq hd
          · exact .acceptFrame hr hb hc hq hd hf
    cases hp : s.phase with
    | idle | done | err => exact quiescent ((busy_eq_false_iff s).2 (by simp [hp]))
    | check =>
      rw [step_check hr hp] at h
      unfold checkStep at h
      rcases srcHdr_cases checkHeader s with ⟨h1, h2⟩ | ⟨w, hh, as, h1, h2⟩ | ⟨as, h1, h2⟩ | ⟨as, h1, h2⟩ <;> rw [h2] at h
      · injection h with h
        subst h
        exact .waits hr (by simpa [Waiting, hp] using h1)
      · unfold checkHeader at h
        split at h
        · next hc =>
          injection h with h
          subst h
          exact .headerPasses hr hp h1 hc
        · next e hc =>
          injection h with h
          subst h
          exact .headerRaises hr hp h1 (.inr (.inr ⟨w, hh, rfl, hc⟩))
        · cases h
      · injection h with h
        subst h
        exact .headerRaises hr hp h1 (.inl ⟨rfl, rfl⟩)
      · injection h with h
        subst h
        exact .headerRaises hr hp h1 (.inr (.inl ⟨rfl, rfl⟩))
    | setup =>
      rw [step_setup hr hp] at h
      exact step_cases_of_emit hr (by simp [emitted, hp]) (fun u hu _ _ _ => by simp [afterSend, hu, hp])
        (fun h0 => by simpa [Waiting, hp] using h0) h
    | fill =>
      rw [step_fill hr hp] at h
      unfold fillStep at h
      split at h
      · next hy =>
        rcases srcNext_cases packPixel s with ⟨h1, h2⟩ | ⟨p, as, h1, h2⟩ | ⟨as, h1, h2⟩ | ⟨as, h1, h2⟩ <;> rw [h2] at h
        · injection h with h
          subst h
          exact .waits hr (by simpa [Waiting, hp] using ⟨hy, h1⟩)
        · simp only [packPixel] at h
          split at h
          · cases h
          · next u hu =>
            injection h with h
            subst h
            exact .pixel hr hp hy h1 hu
        · injection h with h
          subst h
          exact .pixelRaises hr hp hy h1 (.inl ⟨rfl, rfl⟩)
        · injection h with h
          subst h
          exact .pixelRaises hr hp hy h1 (.inr ⟨rfl, rfl⟩)
      · next hy =>
        simp only [packPixel] at h
        split at h
        · cases h
        · next u hu =>
          injection h with h
          subst h
          exact .clearPixel hr hp (Nat.le_of_not_lt hy) hu
    | repl =>
      rw [step_repl hr hp] at h
      unfold replStep at h
      split at h
      · cases h
      · next u hu =>
        injection h with h
        subst h
        exact .replicates hr hp hu
    | padout =>
      rw [step_padout hr hp] at h
      split at h
      · next hk =>
        refine step_cases_of_send hr (b := s.cfg.sp) (by simp [emitted, hp, hk])
          (fun h0 => by simpa [Waiting, hp] using ⟨hk, h0⟩) ?_
        rw [← h]
        unfold chPut
        cases s.chAns with
        | nil => rfl
        | cons a as => cases a <;> simp [afterSend, hp]
      · next hk =>
        injection h with h
        subst h
        exact .paddingDone hr hp (Nat.le_of_not_lt hk)
    | hdr =>
      rw [step_hdr hr hp] at h
      exact step_cases_of_emit hr (by simp [emitted, hp]) (fun u hu _ _ _ => by simp [afterSend, hu, hp])
        (fun h0 => by simpa [Waiting, hp] using h0) h
    | data =>
      rw [step_data hr hp] at h
      unfold emitBandByte at h
      split at h
      · next hk =>
        split at h
        · cases h
        · next b hb =>
          refine step_cases_of_send hr (b := b) (by simp [emitted, hp, hk, hb])
            (fun h0 => by simpa [Waiting, hp] using h0) ?_
          rw [← h]
          unfold chPut
          cases s.chAns with
          | nil => rfl
          | cons a as => cases a <;> simp [afterSend, hp]
      · cases h
    | trail =>
      rw [step_trail hr hp] at h
      exact step_cases_of_emit hr (by simp [emitted, hp]) (fun u hu _ _ _ => by simp [afterSend, hu, hp])
        (fun h0 => by simpa [Waiting, hp] using h0) h
    | restore =>
      rw [step_restore hr hp] at h
      exact step_cases_of_emit hr (by simp [emitted, hp]) (fun u hu _ _ _ => by simp [afterSend, hu, hp])
        (fun h0 => by simpa [Waiting, hp] using h0) h
    | frame =>
      rw [step_frame hr hp] at h
      exact step_cases_of_emit hr (by simp [emitted, hp]) (fun u hu hc hf _ => by simp [afterSend, hu, hp, hc, hf])
        (fun h0 => by simpa [Waiting, hp] using h0) h

end Sys2Proof.Machine
end

