-- ==== Sys2Proof/Tests/Slice0.lean ====
section
/-! SUPPORT. Tests and witnesses. The expected values are the spec's own: the vectors V<n> and examples X<n> of
`95_test_vectors.md`, the table of R161, or a hand calculation from the rule named. A `witness_` theorem shows operands and
a state that meet all hypotheses of the obligation it is named after. -/

namespace Sys2Proof.Tests

open Sys2Proof Sys2Proof.Machine

/-! ## A configuration and states to test on -/

/-- The configuration REF of `95_test_vectors.md`, with code bytes and a `FRAME_MAX` chosen for these tests. -/
def ref : Config where
  hrepHigh := 1
  limitLow := 192
  limitHigh := 576
  deviceWidth := 576
  padUnit := 12
  bufBytes := 1728
  dimBits := 16
  frameMax := 4
  densityLow := 0x01
  densityHigh := 0x21
  pitchLow := 0x18
  pitchHigh := 0x18
  esc := 0x1B
  gs := 0x1D
  cr := 0x0D
  lf := 0x0A
  sp := 0x20
  nul := 0x00
  buzzerCode := 0x42
  chsizeCode := 0x21
  fontCode := 0x4D
  dblprintCode := 0x47
  emphCode := 0x45
  mirrorCode := 0x7B
  rotateCode := 0x56
  inverseCode := 0x49

/-- After reset, under `ref`. -/
def idle : State := { State.reset with cfg := ref }

/-- `idle` with one request presented. -/
def asked (r : Request) : State := { idle with reqs := [r] }

/-- An accepted `ENCODE res, just`, before its header. -/
def checking (res just : Byte) (a : HdrAnswer) : State :=
  { idle with phase := .check, res := res, just := just, hdrAns := [a] }

/-- A High conversion, Right justified, of an image 2 wide and 30 high, in its first band. -/
def high (p : Phase) : State :=
  { idle with
    phase := p, res := 1, just := 2, w := 2, h := 30, rowh := 24, cols := 2, nbytes := 6, pad := 47
    dens := 0x21, pitch := 0x18
    buf := [(0, 0x80), (1, 0), (2, 0), (3, 0x40), (4, 0), (5, 0)] }

/-- A Low conversion, Left justified, of an image 1 wide and 9 high, in its second band. -/
def low (p : Phase) : State :=
  { idle with
    phase := p, res := 0, just := 0, w := 1, h := 9, rowh := 8, cols := 3, nbytes := 3, pad := 0
    dens := 0x01, pitch := 0x18, y := 8, buf := [(0, 0x80), (1, 0), (2, 0)] }

/-! ## Well-formedness: an ill-formed term for each check -/

theorem test_wf_refuses_long_frame :
    Instr.wellFormed ref (.frame .esc 0x40 [1, 2, 3, 4, 5] false) = false ∧
      Instr.wellFormed ref (.frame .esc 0x40 [1, 2, 3, 4] false) = true := by decide

theorem test_wf_refuses_bit_image :
    Instr.wellFormed ref (.bimg 0x21 0 []) = false ∧ Instr.wellFormed ref (.bimg 0x02 1 [0]) = false ∧
      Instr.wellFormed ref (.bimg 0x21 1 [0, 0]) = false ∧ Instr.wellFormed ref (.bimg 0x01 577 []) = false ∧
      Instr.wellFormed ref (.bimg 0x21 1 [0, 0, 0]) = true := by decide

theorem test_wf_refuses_underline :
    Instr.wellFormed ref (.ul 0x2F) = false ∧ Instr.wellFormed ref (.ul 0x33) = false ∧
      Instr.wellFormed ref (.ul 0x30) = true ∧ Instr.wellFormed ref (.ul 0x32) = true := by decide

theorem test_wf_refuses_magnification :
    Instr.wellFormed ref (.chsz 0 1) = false ∧ Instr.wellFormed ref (.chsz 17 1) = false ∧
      Instr.wellFormed ref (.chsz 1 0) = false ∧ Instr.wellFormed ref (.chsz 1 17) = false ∧
      Instr.wellFormed ref (.chsz 1 16) = true := by decide

theorem test_wf_refuses_payload :
    Instr.wellFormed ref (.bcode 4 [0x00]) = false ∧ Instr.wellFormed ref (.bcode 4 [0x80]) = false ∧
      Instr.wellFormed ref (.bcode 4 [0x41, 0x41, 0x41, 0x41]) = false ∧
      Instr.wellFormed ref (.bcode 4 [0x01, 0x7F, 0x41]) = true := by decide

theorem test_wf_refuses_long_padding :
    Instr.wellFormed ref (.padrun 49) = false ∧ Instr.wellFormed ref (.padrun 48) = true := by decide

theorem test_config_wf : ref.wf = true ∧ ref.parseable = true := by decide

theorem test_config_ill_formed :
    { ref with limitLow := 577 }.wf = false ∧ { ref with limitHigh := 577 }.wf = false ∧
      { ref with padUnit := 0 }.wf = false ∧ { ref with hrepHigh := 2 }.wf = false ∧ { ref with bufBytes := 1727 }.wf = false ∧
      { ref with frameMax := 0 }.wf = false := by decide

theorem test_config_not_parseable :
    { ref with buzzerCode := 0x2A }.parseable = false ∧ { ref with densityLow := 0x21 }.parseable = false ∧
      { ref with inverseCode := 0x77 }.parseable = false := by decide

/-! ## Decoding: words from R104 and the vectors of part 2.7 -/

theorem test_decode_encode : decode ref (.encodeRec 0x01 0x02) = .ok (.encode 1 2) := by decide

theorem test_decode_frame :
    decode ref (.frameRec .gs 0x40 [0x05] true) = .ok (.frame .gs 0x40 [0x05] true) := by decide

theorem test_decode_lsp : decode ref (.wire [0x1B, 0x33, 0x18]) = .ok (.lsp 24) := by decide

theorem test_decode_lspd : decode ref (.wire [0x1B, 0x32]) = .ok .lspd := by decide

theorem test_decode_bimg :
    decode ref (.wire [0x1B, 0x2A, 0x21, 0x02, 0x00, 0x80, 0x00, 0x00, 0x40, 0x00, 0x00]) =
      .ok (.bimg 0x21 2 [0x80, 0x00, 0x00, 0x40, 0x00, 0x00]) := by decide

theorem test_decode_bimg_low :
    decode ref (.wire [0x1B, 0x2A, 0x01, 0x03, 0x00, 0xA5, 0xA5, 0xA5]) =
      .ok (.bimg 0x01 3 [0xA5, 0xA5, 0xA5]) := by decide

theorem test_decode_buzz : decode ref (.wire [0x1B, 0x42]) = .ok .buzz := by decide

theorem test_decode_pcut : decode ref (.wire [0x1D, 0x56, 0x01]) = .ok .pcut := by decide

theorem test_decode_ul : decode ref (.wire [0x1B, 0x2D, 0x31]) = .ok (.ul 0x31) := by decide

theorem test_decode_chsz : decode ref (.wire [0x1D, 0x21, 0x12]) = .ok (.chsz 2 3) := by decide

theorem test_decode_font : decode ref (.wire [0x1B, 0x4D, 0x01]) = .ok (.font 1) := by decide

theorem test_decode_dblp : decode ref (.wire [0x1B, 0x47, 0x01]) = .ok (.dblp 1) := by decide

theorem test_decode_emph : decode ref (.wire [0x1B, 0x45, 0x00]) = .ok (.emph 0) := by decide

theorem test_decode_inv : decode ref (.wire [0x1D, 0x49, 0x01]) = .ok (.inv 1) := by decide

theorem test_decode_mirr : decode ref (.wire [0x1B, 0x7B, 0x01]) = .ok (.mirr 1) := by decide

theorem test_decode_rot : decode ref (.wire [0x1B, 0x56, 0x01]) = .ok (.rot 1) := by decide

theorem test_decode_bcw : decode ref (.wire [0x1D, 0x77, 0x02]) = .ok (.bcw 2) := by decide

theorem test_decode_bch : decode ref (.wire [0x1D, 0x68, 0x50]) = .ok (.bch 80) := by decide

theorem test_decode_bctp : decode ref (.wire [0x1D, 0x48, 0x02]) = .ok (.bctp 2) := by decide

theorem test_decode_bcode :
    decode ref (.wire [0x1D, 0x6B, 0x04, 0x41, 0x42, 0x00]) = .ok (.bcode 4 [0x41, 0x42]) := by decide

theorem test_decode_padrun : decode ref (.wire [0x20, 0x20]) = .ok (.padrun 2) := by decide

theorem test_decode_rejects :
    decode ref (.wire []) = .error .empty ∧ decode ref (.wire [0x00, 0x33]) = .error .noPrefixByte ∧
      decode ref (.wire [0x1B]) = .error .truncated ∧ decode ref (.wire [0x1B, 0x33]) = .error .truncated ∧
      decode ref (.wire [0x1B, 0x00, 0x00]) = .error .unknownCode ∧
      decode ref (.wire [0x1D, 0x56, 0x00]) = .error .cutParameter ∧
      decode ref (.wire [0x1B, 0x2A, 0x02, 0x00, 0x00]) = .error .unknownDensity ∧
      decode ref (.wire [0x1D, 0x6B, 0x04, 0x41]) = .error .noTerminator ∧
      decode ref (.wire [0x1B, 0x32, 0x00]) = .error .trailingBytes := by decide

/-- The opcode table's words of rows with no open byte, numbered as R111 does. -/
theorem test_table_words :
    decodeTableWord 24 0x1B3318 = some (.lsp 24) ∧ decodeTableWord 16 0x1B32 = some .lspd ∧
      decodeTableWord 24 0x1D5601 = some .pcut ∧ decodeTableWord 24 0x1B2D31 = some (.ul 0x31) ∧
      decodeTableWord 24 0x1D7702 = some (.bcw 2) ∧ decodeTableWord 24 0x1D6804 = some (.bch 4) ∧
      decodeTableWord 24 0x1D4801 = some (.bctp 1) := by decide

/-- V70, V71, V74: the header bytes of a bit image. -/
theorem test_bit_image_header :
    bimgHeader ref 0x21 2 = [0x1B, 0x2A, 0x21, 0x02, 0x00] ∧ bimgHeader ref 0x01 36 = [0x1B, 0x2A, 0x01, 0x24, 0x00] ∧
      bimgHeader ref 0x21 256 = [0x1B, 0x2A, 0x21, 0x00, 0x01] := by decide

/-- An emitted stream read back: V33. -/
theorem test_parse_stream :
    parseStream ref [0x1B, 0x33, 0x18, 0x1B, 0x2A, 0x01, 0x03, 0x00, 0xA5, 0xA5, 0xA5, 0x0D, 0x0A, 0x1B, 0x32] =
      .ok [.instr (.lsp 24), .instr (.bimg 0x01 3 [0xA5, 0xA5, 0xA5]), .trailer, .instr .lspd] := by decide

/-! ## Checks, padding and the tiler -/

/-- V10 to V13, V16 to V21. -/
theorem test_precheck_raises :
    precheck ref 0 0 600 1 = .raises .sizeLimitError ∧ precheck ref 0 0 65 1 = .raises .sizeLimitError ∧
      precheck ref 1 0 577 1 = .raises .sizeLimitError ∧ precheck ref 2 0 2 2 = .raises .unsupportedModeError ∧
      precheck ref 1 3 2 2 = .raises .unsupportedModeError ∧ precheck ref 1 0 0 5 = .raises .formatError ∧
      precheck ref 1 0 5 0 = .raises .formatError ∧ precheck ref 2 3 0 0 = .raises .formatError ∧
      precheck ref 2 3 600 1 = .raises .unsupportedModeError ∧
      precheck ref 0 255 600 1 = .raises .unsupportedModeError := by decide

/-- V23 to V26. -/
theorem test_precheck_limits :
    precheck ref 1 0 2 65536 = .refuses ∧ precheck ref 0 0 64 1 = .pass ∧ precheck ref 1 0 576 1 = .pass ∧
      precheck ref 1 0 2 65535 = .pass := by decide

/-- Rows of the table of R161. -/
theorem test_padding :
    jcalc ref 1 36 = 22 ∧ jcalc ref 2 36 = 45 ∧ jcalc ref 0 36 = 0 ∧ jcalc ref 1 553 = 0 ∧ jcalc ref 2 553 = 1 ∧
      jcalc ref 1 25 = 22 ∧ jcalc ref 2 25 = 45 ∧ jcalc ref 1 1 = 23 ∧ jcalc ref 2 1 = 47 := by decide

/-- V40 to V48. -/
theorem test_pack_byte :
    packByte 0x00 0 true = 0x80 ∧ packByte 0x80 7 true = 0x81 ∧ packByte 0x00 8 true = 0x80 ∧
      packByte 0x00 23 true = 0x01 ∧ packByte 0x00 1 true = 0x40 ∧ packByte 0xFF 3 false = 0xEF ∧
      packByte 0xFF 3 true = 0xFF ∧ packByte 0x00 3 false = 0x00 := by decide

/-- V40 to V49: the addresses. -/
theorem test_pack_address :
    packAddr 0 7 = 0 ∧ packAddr 0 8 = 1 ∧ packAddr 0 23 = 2 ∧ packAddr 1 1 = 3 ∧ packAddr 575 23 = 1727 ∧
      packAddr 2 3 = 6 ∧ packAddr 63 7 = 189 := by decide

/-- V50, V52, V53. -/
theorem test_band_bytes :
    bandBytesOf 1 2 2 [true, false, false, true] 0 = [0x80, 0x00, 0x00, 0x40, 0x00, 0x00] ∧
      bandBytesOf 0 2 9 [true, false, false, true, true, true, false, false, true, false, false, true, true, true,
        false, false, true, true] 0 = [0xAA, 0xAA, 0xAA, 0x66, 0x66, 0x66] ∧
      bandBytesOf 0 2 9 [true, false, false, true, true, true, false, false, true, false, false, true, true, true,
        false, false, true, true] 8 = [0x80, 0x80, 0x80, 0x80, 0x80, 0x80] := by decide

/-- A byte access outside `BUF` faults (R64), a read of a byte nothing has written faults (R35). -/
theorem test_memory_faults :
    memRead idle 1728 = .error .bufIndexOutOfRange ∧ memWrite idle 1728 0 = .error .bufIndexOutOfRange ∧
      memRead idle 0 = .error .bufUnwritten ∧ memRead (high .data) 3 = .ok 0x40 := ⟨rfl, rfl, rfl, rfl⟩

/-! ## One step each -/

/-- R202. -/
theorem test_step_encode :
    step (asked (.encodeRec 1 2)) = .next { idle with phase := .check, res := 1, just := 2 } := rfl

/-- R231, R93. -/
theorem test_step_frame :
    step (asked (.frameRec .gs 0x40 [5] true)) = .next { idle with phase := .frame, fd := ⟨.gs, 0x40, [5], true⟩ } := rfl

/-- R107. -/
theorem test_step_frame_too_long :
    step (asked (.frameRec .gs 0x40 [1, 2, 3, 4, 5] true)) = .refused .frameTooLong := rfl

/-- R246, R102: hmag 2, vmag 3 give 0x12. -/
theorem test_step_chsz :
    step (asked (.wire [0x1D, 0x21, 0x12])) = .next { idle with phase := .frame, fd := ⟨.gs, 0x21, [0x12], false⟩ } := rfl

/-- R246, D18: `CHSZ 17, 1` has no parameter byte and is refused when it is presented by name. -/
theorem test_step_named_out_of_domain :
    step (asked (.named (.chsz 17 1))) = .refused .magnificationDomain := rfl

/-- R110: `FONT 1` is the frame `ESC FONT_CODE 1`, also where the configuration gives the underline frame that code. -/
theorem test_step_named_font :
    step { asked (.named (.font 1)) with cfg := { ref with fontCode := 0x2D } } =
      .next { idle with
        cfg := { ref with fontCode := 0x2D }, phase := .frame, fd := ⟨.esc, 0x2D, [0x01], false⟩ } := rfl

/-- R245: `UL 3` is outside the domain. -/
theorem test_step_ul : step (asked (.wire [0x1B, 0x2D, 0x03])) = .refused .underlineDomain := rfl

/-- R259. -/
theorem test_step_bcode :
    step (asked (.wire [0x1D, 0x6B, 0x04, 0x7F, 0x00])) =
        .next { idle with phase := .frame, fd := ⟨.gs, 0x6B, [0x04, 0x7F], true⟩ } ∧
      step (asked (.wire [0x1D, 0x6B, 0x04, 0x80, 0x00])) = .refused .payloadDomain := ⟨rfl, rfl⟩

/-- R110: neither has a request form. -/
theorem test_step_no_request_form :
    step (asked (.wire [0x20])) = .refused .noRequestForm ∧
      step (asked (.wire [0x1B, 0x2A, 0x01, 0x01, 0x00, 0xFF])) = .refused .noRequestForm := ⟨rfl, rfl⟩

/-- V14, V15: header errors. -/
theorem test_step_header_errors :
    step (checking 1 0 .formatErr) =
        .next { idle with phase := .err, res := 1, errcode := 1, errlog := 0b0001 } ∧
      step (checking 1 0 .ioErr) = .next { idle with phase := .err, res := 1, errcode := 4, errlog := 0b1000 } := ⟨rfl, rfl⟩

/-- R204 for a Low image 12 by 8, centered (X2). -/
theorem test_step_check :
    step (checking 0 1 (.hdr 12 8)) =
      .next { idle with
        phase := .setup, just := 1, w := 12, h := 8, rowh := 8, cols := 36, nbytes := 36, pad := 22
        dens := 0x01, pitch := 0x18 } := rfl

/-- R206: a set pixel at column 0, sub-row 1 makes 0x80 into 0xC0. -/
theorem test_step_fill :
    step { high .fill with i := 1, pxAns := [.px true] } =
      .next { high .fill with
        i := 1, x := 1, npx := 1, buf := [(0, 0xC0), (1, 0), (2, 0), (3, 0x40), (4, 0), (5, 0)] } := rfl

/-- R206, R174: a sub-row below the image is clear and asks the source nothing. -/
theorem test_step_fill_clear :
    step { low .fill with i := 7, pxAns := [.px true] } =
      .next { low .repl with i := 8, pxAns := [.px true] } := rfl

/-- R210, R181. -/
theorem test_step_repl :
    step (low .repl) = .next { low .padout with x := 1, buf := [(0, 0x80), (1, 0x80), (2, 0x80)] } := rfl

/-- R209. -/
theorem test_step_padrun :
    step { high .padout with chAns := [.ok] } = .next { high .padout with k := 1, out := [0x20], ch := [0x20] } ∧
      step { high .padout with k := 47 } = .next (high .hdr) := ⟨rfl, rfl⟩

/-- R211, R212. -/
theorem test_step_bimg :
    step { high .hdr with k := 3, chAns := [.ok] } =
        .next { high .hdr with k := 4, out := [0x02], ch := [0x02] } ∧
      step { high .data with k := 3, chAns := [.ok] } =
        .next { high .data with k := 4, out := [0x40], ch := [0x40] } := ⟨rfl, rfl⟩

/-- R213 to R215: the second band starts at row 24. -/
theorem test_step_trail :
    step { high .trail with k := 1, chAns := [.ok] } =
      .next { high .fill with
        k := 2, y := 24, out := [0x0A], ch := [0x0A]
        buf := [(0, 0), (1, 0), (2, 0), (3, 0), (4, 0), (5, 0)] } := rfl

/-- R216. -/
theorem test_step_restore :
    step { high .restore with k := 1, y := 48, chAns := [.ok] } =
      .next { high .done with k := 2, y := 48, out := [0x32], ch := [0x32] } := rfl

/-- R217: the byte is not in `OUT`. -/
theorem test_step_channel_failure :
    step { high .hdr with k := 3, chAns := [.chFail] } =
      .next { high .err with k := 3, errcode := 4, errlog := 0b1000 } := rfl

/-- R320. -/
theorem test_step_reset :
    step { high .data with rst := true, errlog := 0b1000, out := [1], ch := [1] } =
      .next { idle with ch := [1] } := rfl

/-! ## Witnesses for the hypotheses of the obligations -/

theorem witness_WordsOfTheTableDecode :
    ref.parseable = true ∧ ref.esc = 0x1B ∧ ref.gs = 0x1D ∧ ref.sp = 0x20 ∧ ref.densityHigh = 0x21 := by decide

theorem witness_DecodeInvertsEncode :
    ref.parseable = true ∧ Instr.wellFormed ref (.bimg 0x21 1 [0, 1, 2]) = true ∧
      Instr.wellFormed ref (.chsz 16 16) = true ∧ Instr.wellFormed ref (.bcode 4 [0x7F]) = true ∧
      Instr.wellFormed ref (.padrun 1) = true ∧ Instr.padrun 1 ≠ .padrun 0 := by decide

theorem witness_EncodeInvertsDecode :
    decode ref (.wire [0x1D, 0x21, 0xFF]) = .ok (.chsz 16 16) ∧ decode ref (.named (.chsz 17 1)) = .ok (.chsz 17 1) ∧
      decode ref (.wire [0x1D, 0x6B, 0x04, 0x00]) = .ok (.bcode 4 []) := by decide

/-- A barcode frame cut before its terminator and one cut before its mode, and an instruction with a byte after it. -/
theorem witness_NonFramesRejected_cut :
    ref.parseable = true ∧ Instr.wellFormed ref (.bcode 4 [0x41]) = true ∧
      encode ref (.bcode 4 [0x41]) = .wire (wireBytes ref (.bcode 4 [0x41])) ∧ 0 < 2 ∧
      4 < (wireBytes ref (.bcode 4 [0x41])).length ∧ ref.nul ∉ ([0x41] : List Byte) ∧
      Instr.wellFormed ref (.padrun 1) = true ∧ Instr.padrun 1 ≠ .padrun 0 ∧
      encode ref (.padrun 1) = .wire (wireBytes ref (.padrun 1)) ∧ (0x41 : Byte) ≠ ref.sp := by decide

theorem witness_NonFramesRejected :
    ((0x1C : Byte) ≠ ref.sp ∧ (0x1C : Byte) ≠ ref.esc ∧ (0x1C : Byte) ≠ ref.gs) ∧ ref.parseable = true ∧
      (0x31 : Byte) ∉ ref.escCodes ∧ (0x57 : Byte) ∉ ref.gsCodes ∧ (0 : Byte) ≠ 1 ∧
      (0x20 : Byte) ≠ ref.densityLow ∧ (0x20 : Byte) ≠ ref.densityHigh := by decide

theorem witness_SizeParameterFields :
    (chszParam 1 16 = 0x0F ∧ chszParam 16 1 = 0xF0) ∧ 1 ≤ 16 ∧ 16 ≤ 16 := by decide

theorem witness_ConversionStreamParsesBack :
    ref.parseable = true ∧ ref.wf = true ∧ precheck ref 0 2 64 1 = .pass ∧ idw ref 0 64 < 2 ^ 16 ∧
      precheck ref 1 0 576 65535 = .pass ∧ idw ref 1 576 < 2 ^ 16 := by decide

theorem witness_EncodeAccepted : idle.busy = false ∧ idle.cfg.wf = true ∧ (high .err).busy = false := by decide

theorem witness_FrameAccepted :
    idle.busy = false ∧ idle.cfg.wf = true ∧ ([1, 2, 3, 4] : List Byte).length ≤ idle.cfg.frameMax := by decide

theorem witness_OversizeFrameRefused :
    idle.busy = false ∧ idle.cfg.wf = true ∧ idle.cfg.frameMax < ([1, 2, 3, 4, 5] : List Byte).length := by decide

theorem witness_LineSpacingRequestsAccepted : idle.busy = false ∧ idle.cfg.wf = true := by decide

theorem witness_ToggleRequestsAccepted : (high .done).busy = false ∧ (high .done).cfg.wf = true := by decide

theorem witness_BarcodeSettingsAccepted : (high .err).busy = false ∧ (high .err).cfg.wf = true := by decide

/-- Boundary values of the domain of `UL`, and that no mode falls under both clauses. -/
theorem witness_UnderlineDomain :
    idle.busy = false ∧ idle.cfg.wf = true ∧
      ((0x32 : Byte) = 0x30 ∨ (0x32 : Byte) = 0x31 ∨ (0x32 : Byte) = 0x32) ∧
      ¬((0x33 : Byte) = 0x30 ∨ (0x33 : Byte) = 0x31 ∨ (0x33 : Byte) = 0x32) := by decide

theorem witness_CharacterSizeDomain :
    idle.busy = false ∧ idle.cfg.wf = true ∧ (1 ≤ 16 ∧ 16 ≤ 16 ∧ 1 ≤ 1 ∧ 1 ≤ 16) ∧
      ¬(1 ≤ 0 ∧ 0 ≤ 16 ∧ 1 ≤ 1 ∧ 1 ≤ 16) ∧ ¬(1 ≤ 17 ∧ 17 ≤ 16 ∧ 1 ≤ 1 ∧ 1 ≤ 16) := by decide

theorem witness_BarcodePayloadDomain :
    idle.busy = false ∧ idle.cfg.wf = true ∧
      ((∀ b ∈ ([0x01, 0x7F, 0x41] : List Byte), 1 ≤ b.toNat ∧ b.toNat ≤ 0x7F) ∧
        1 + ([0x01, 0x7F, 0x41] : List Byte).length ≤ idle.cfg.frameMax) ∧
      ¬(∀ b ∈ ([0x00] : List Byte), 1 ≤ b.toNat ∧ b.toNat ≤ 0x7F) ∧
      ¬(∀ b ∈ ([0x80] : List Byte), 1 ≤ b.toNat ∧ b.toNat ≤ 0x7F) := by decide

theorem witness_NamedRequestsAreFrames :
    namedDescriptor idle.cfg (.ul 0x31) = some ⟨.esc, 0x2D, [0x31], false⟩ ∧
      Instr.wellFormed idle.cfg (.ul 0x31) = true ∧ idle.rst = false ∧ idle.busy = false := by decide

theorem witness_BandEmissionsAreNoRequests : (high .done).busy = false ∧ (high .done).rst = false := by decide

theorem witness_RequestsHeldOffWhileBusy :
    ((high .data).busy = true ∧ (high .data).rst = false) ∧
      ((asked (.encodeRec 1 2)).busy = false ∧ (asked (.encodeRec 1 2)).rst = false ∧
        (asked (.encodeRec 1 2)).reqs = [.encodeRec 1 2] ∧
        decode (asked (.encodeRec 1 2)).cfg (.encodeRec 1 2) = .ok (.encode 1 2)) := by decide

theorem witness_StepRunsTheDecodedInstruction :
    ((asked (.wire [0x1B, 0x32])).rst = false ∧ (asked (.wire [0x1B, 0x32])).busy = false ∧
        decode (asked (.wire [0x1B, 0x32])).cfg (.wire [0x1B, 0x32]) = .ok .lspd) ∧
      ((high .padout).rst = false ∧ (high .padout).phase = .padout) ∧
      ((high .hdr).rst = false ∧ ((high .hdr).phase = .hdr ∨ (high .hdr).phase = .data)) := by decide

theorem witness_QuiescentWithoutRequest : idle.rst = false ∧ idle.busy = false ∧ idle.reqs = [] := by decide

theorem witness_CheckStepOutcome :
    (checking 1 0 (.hdr 576 1)).cfg.wf = true ∧ (checking 1 0 (.hdr 576 1)).rst = false ∧ (checking 1 0 (.hdr 576 1)).phase = .check ∧
      (checking 1 0 (.hdr 576 1)).hdrAns = .hdr 576 1 :: [] := by decide

theorem witness_PaddingStaysOnThePage :
    ref.wf = true ∧ precheck ref 1 2 576 1 = .pass ∧ precheck ref 0 1 1 1 = .pass := by decide

theorem witness_PaddingRanges :
    ref.deviceWidth = 576 ∧ ref.padUnit = 12 ∧ 1 ≤ 1 ∧ 1 ≤ 576 ∧ 576 ≤ 576 := by decide

theorem witness_PackAddressInBand :
    ref.wf = true ∧ precheck ref 1 0 576 1 = .pass ∧ 575 < 576 ∧ 23 < rowhOf 1 := by decide

theorem witness_PackWritesOneBit :
    1 * 3 + 23 / 8 < (high .fill).cfg.bufBytes ∧ (high .fill).buf.read (1 * 3 + 23 / 8) = some 0 := by decide

theorem witness_FillStepPacksOnePixel :
    ((high .fill).rst = false ∧ (high .fill).phase = .fill ∧
        packAddr (high .fill).x (high .fill).i < (high .fill).cfg.bufBytes ∧
        (high .fill).buf.read (packAddr (high .fill).x (high .fill).i) = some 0x80 ∧
        (high .fill).y + (high .fill).i < (high .fill).h) ∧
      (packAddr 0 1 < (low .fill).cfg.bufBytes ∧ (low .fill).buf.read (packAddr 0 1) = some 0x80 ∧
        (low .fill).h ≤ (low .fill).y + 1) := by decide

theorem witness_SourceFailureRaises :
    (high .fill).rst = false ∧ (high .fill).phase = .fill ∧ (high .fill).y + (high .fill).i < (high .fill).h := by
  decide

theorem witness_ReplicationStep :
    (low .repl).rst = false ∧ (low .repl).phase = .repl ∧ 3 * (low .repl).x + 2 < (low .repl).cfg.bufBytes ∧
      (low .repl).buf.read (3 * (low .repl).x) = some 0x80 := by decide

theorem witness_BandRoundTrip : 1 < 2 ∧ 23 < rowhOf 1 ∧ 7 < rowhOf 0 := by decide

theorem witness_LinePitchSetStep :
    (high .setup).rst = false ∧ (high .setup).phase = .setup ∧
      [(high .setup).cfg.esc, 0x33, (high .setup).pitch][0]? = some 0x1B ∧
      [(high .setup).cfg.esc, 0x33, (high .setup).pitch][2]? = some 0x18 := by decide

theorem witness_PaddingRunStep :
    (high .padout).phase = .padout ∧ (high .padout).k < 47 ∧ 46 < 47 ∧ 47 ≤ 47 ∧ 0 ≤ (high .padout).k := by decide

theorem witness_BandHeaderStep :
    (high .hdr).phase = .hdr ∧
      ([0x1B, 0x2A, 0x21, BitVec.ofNat 8 ((2 : BitVec 16).toNat % 256), BitVec.ofNat 8 ((2 : BitVec 16).toNat / 256)] :
        List Byte)[4]? = some 0 := by decide

theorem witness_BandDataStep :
    (high .data).phase = .data ∧ (high .data).k < (high .data).cfg.bufBytes ∧
      ([0x80, 0x00] : List Byte)[(high .data).k]? = some 0x80 := by decide

theorem witness_TrailerAndBandLoop :
    (high .trail).rst = false ∧ (high .trail).phase = .trail ∧ (high .trail).k = 0 ∧
      (high .trail).y + (high .trail).rowh < (high .trail).h ∧ (low .trail).h ≤ (low .trail).y + (low .trail).rowh := by
  decide

theorem witness_LinePitchRestoreStep :
    { high .restore with chAns := [.ok] }.rst = false ∧ { high .restore with chAns := [.ok] }.phase = .restore ∧
      { high .restore with chAns := [.ok] }.k = 0 ∧ { high .restore with chAns := [.ok] }.chAns = .ok :: [] ∧
      { high .restore with k := 1, chAns := [.chFail] }.k < 2 ∧
      { high .restore with k := 1, chAns := [.chFail] }.chAns = .chFail :: [] := by decide

/-- The last band's trailer enters `RESTORE`; a failing channel ends in `ERR`. -/
theorem witness_LinePitchRestoredOnlyOnCompletion :
    (∃ t, step { low .trail with k := 1, chAns := [.ok] } = .next t ∧ t.phase = .restore) ∧ (low .trail).phase ≠ .restore ∧
      (∃ t, step { low .trail with k := 1, chAns := [.chFail] } = .next t ∧ t.phase = .err) ∧
      (low .trail).phase ≠ .err := ⟨⟨_, rfl, rfl⟩, nofun, ⟨_, rfl, rfl⟩, nofun⟩

theorem witness_FrameRequestEmitsItsFrame :
    (asked (.frameRec .gs 0x40 [5] true)).rst = false ∧ (asked (.frameRec .gs 0x40 [5] true)).busy = false ∧
      (asked (.frameRec .gs 0x40 [5] true)).cfg.wf = true ∧
      ([5] : List Byte).length ≤ (asked (.frameRec .gs 0x40 [5] true)).cfg.frameMax ∧
      (asked (.frameRec .gs 0x40 [5] true)).reqs = .frameRec .gs 0x40 [5] true :: [] ∧
      ([.ok, .ok, .ok, .ok] : List ChAnswer) = List.replicate 4 .ok ++ [] := by decide

/-- One state for each phase that emits. -/
theorem witness_ChannelFailureRaises :
    ((high .setup).phase = .setup ∧ (high .setup).k < 3) ∧ ((high .padout).phase = .padout ∧ (high .padout).k < 47) ∧
      ((high .hdr).phase = .hdr ∧ (high .hdr).k < 5) ∧
      ((high .data).phase = .data ∧ (high .data).k < (high .data).nbytes ∧
        (high .data).k < (high .data).cfg.bufBytes ∧
        ∀ n ≤ (high .data).k, ((high .data).buf.read n).isSome = true) ∧
      ((high .trail).phase = .trail ∧ (high .trail).k < 2) ∧
      ((high .restore).phase = .restore ∧ (high .restore).k < 2) ∧
      ((high .frame).phase = .frame ∧
        (high .frame).k < 2 + (high .frame).fd.par.length + (high .frame).fd.zt.toNat) := by decide

theorem witness_RaiseEffect :
    { high .err with reqs := [.encodeRec 1 2] }.phase = .err ∧
      ∃ t, step { high .err with reqs := [.encodeRec 1 2] } = .next t ∧ t.phase = .check := ⟨rfl, _, rfl, rfl⟩

theorem witness_ErrorLogIsSticky :
    { checking 1 0 .formatErr with errlog := 0b0100 }.rst = false ∧
      step { checking 1 0 .formatErr with errlog := 0b0100 } =
        .next { idle with phase := .err, res := 1, errcode := 1, errlog := 0b0101 } := ⟨rfl, rfl⟩

theorem witness_ResetWireAbandonsTheOperation : { high .data with rst := true }.rst = true := by decide

theorem witness_LatchedRegistersAreStable :
    (high .padout).rst = false ∧ (high .padout).busy = true ∧ (high .padout).phase ≠ .check ∧
      step { high .padout with k := 47 } = .next (high .hdr) := ⟨rfl, rfl, nofun, rfl⟩

theorem witness_OneTransactionPerStep :
    { high .hdr with chAns := [.ok, .ok] }.rst = false ∧
      step { high .hdr with chAns := [.ok, .ok] } =
        .next { high .hdr with k := 1, chAns := [.ok], out := [0x1B], ch := [0x1B] } := ⟨rfl, rfl⟩

/-- Each phase with an invariant state: the ranges of its counters are met. -/
theorem inv_high_data : Inv (high .data) where
  config := by decide
  status := ⟨by decide, by decide, by decide⟩
  buffer := ⟨by decide, by decide⟩
  ranges := ⟨⟨by decide, by decide, by decide, by decide, by decide, by decide, by decide, by decide, by decide, by decide,
    by decide, by decide, by decide⟩, by decide, by decide, by unfold BandWritten; decide⟩

theorem inv_high_fill : Inv (high .fill) where
  config := by decide
  status := ⟨by decide, by decide, by decide⟩
  buffer := ⟨by decide, by decide⟩
  ranges := ⟨⟨by decide, by decide, by decide, by decide, by decide, by decide, by decide, by decide, by decide, by decide,
    by decide, by decide, by decide⟩, by decide, by decide, by decide, by unfold BandWritten; decide⟩

/-- The Low conversion at the start of its second band, with the one real row of it. -/
def lowFill : State := { low .fill with pxAns := [.px true] }

theorem inv_low_fill : Inv lowFill where
  config := by decide
  status := ⟨by decide, by decide, by decide⟩
  buffer := ⟨by decide, by decide⟩
  ranges := ⟨⟨by decide, by decide, by decide, by decide, by decide, by decide, by decide, by decide, by decide, by decide,
    by decide, by decide, by decide⟩, by decide, by decide, by decide, by unfold BandWritten; decide⟩

theorem inv_checking (res just : Byte) (a : HdrAnswer) : Inv (checking res just a) where
  config := (by decide : ref.wf = true)
  status := ⟨(by decide : (0 : BitVec 3).toNat ≤ 4), iff_of_false (fun h => nomatch h) (fun h => h rfl), fun h => absurd rfl h⟩
  buffer := ⟨List.Pairwise.nil, fun _ h => nomatch h⟩
  ranges := trivial

theorem inv_asked (r : Request) : Inv (asked r) where
  config := (by decide : ref.wf = true)
  status := ⟨(by decide : (0 : BitVec 3).toNat ≤ 4), iff_of_false (fun h => nomatch h) (fun h => h rfl), fun h => absurd rfl h⟩
  buffer := ⟨List.Pairwise.nil, fun _ h => nomatch h⟩
  ranges := trivial

theorem witness_BandBytesAreTheClosedForm :
    Inv lowFill ∧ lowFill.rst = false ∧ lowFill.phase = .fill ∧ lowFill.i = 0 ∧ lowFill.x = 0 ∧
      ([true, false, true, false, true, false, true, false, true] : List Bool).length = lowFill.w * lowFill.h ∧
      lowFill.pxAns = ((([true, false, true, false, true, false, true, false, true].drop (lowFill.y * lowFill.w)).take
        (min lowFill.rowh (lowFill.h - lowFill.y) * lowFill.w)).map .px) ++ [] :=
  ⟨inv_low_fill, by decide⟩

theorem witness_DataStepWritesTheBufferByte :
    Inv (high .data) ∧ (high .data).rst = false ∧ (high .data).phase = .data ∧
      (high .data).buf.read (high .data).k = some 0x80 := ⟨inv_high_data, by decide⟩

/-- A step into `ERR` for each of the four codes. -/
theorem witness_ErrorsComeFromTheirPhases :
    (Inv (checking 1 0 .formatErr) ∧ ∃ t, step (checking 1 0 .formatErr) = .next t ∧ t.phase = .err ∧ t.errcode = 1) ∧
      (Inv (checking 2 0 (.hdr 2 2)) ∧ ∃ t, step (checking 2 0 (.hdr 2 2)) = .next t ∧ t.phase = .err ∧ t.errcode = 2) ∧
      (Inv (checking 0 0 (.hdr 65 1)) ∧
        ∃ t, step (checking 0 0 (.hdr 65 1)) = .next t ∧ t.phase = .err ∧ t.errcode = 3) ∧
      (Inv (checking 1 0 .ioErr) ∧ ∃ t, step (checking 1 0 .ioErr) = .next t ∧ t.phase = .err ∧ t.errcode = 4) :=
  ⟨⟨inv_checking _ _ _, _, rfl, rfl, rfl⟩, ⟨inv_checking _ _ _, _, rfl, rfl, rfl⟩,
    ⟨inv_checking _ _ _, _, rfl, rfl, rfl⟩, ⟨inv_checking _ _ _, _, rfl, rfl, rfl⟩⟩

theorem witness_StepWaitsExactlyWhenUnanswered :
    Inv (high .data) ∧ (high .data).rst = false ∧ Waiting (high .data) ∧ ¬Waiting lowFill :=
  ⟨inv_high_data, rfl, rfl, fun h => nomatch h.2⟩

theorem witness_StepKeepsTheInvariant :
    Inv lowFill ∧ ∃ t, step lowFill = .next t ∧ t.npx = 1 ∧ t.i = 1 := ⟨inv_low_fill, _, rfl, rfl, rfl⟩

theorem witness_SessionsKeepTheInvariant :
    Inv lowFill ∧ ∃ t, Reaches lowFill t ∧ t.rst = true ∧ t.npx = 1 := by
  refine ⟨inv_low_fill, _, .env .pulseReset (.step .refl (u := ?_) ?_) rfl, rfl, ?_⟩
  · exact { low .fill with i := 1, npx := 1, buf := [(0, 0x80), (1, 0), (2, 0)] }
  · rfl
  · rfl

theorem witness_NoStepFaults : Inv (high .fill) ∧ Inv (high .data) := ⟨inv_high_fill, inv_high_data⟩

theorem witness_OnlyNamedRefusals :
    (Inv (checking 1 0 (.hdr 2 65536)) ∧ step (checking 1 0 (.hdr 2 65536)) = .refused .heightNotRepresentable) ∧
      (Inv (asked (.named (.chsz 17 1))) ∧ step (asked (.named (.chsz 17 1))) = .refused .magnificationDomain) ∧
      (Inv (asked (.wire [0x20])) ∧ step (asked (.wire [0x20])) = .refused .noRequestForm) :=
  ⟨⟨inv_checking _ _ _, rfl⟩, ⟨inv_asked _, rfl⟩, ⟨inv_asked _, rfl⟩⟩

/-- The High conversion in the data of its first band, with the bytes and pixels its position takes. -/
def accounted : State :=
  { high .data with
    k := 1, npx := 48, chAns := [.ok], out := List.replicate 56 0, ch := 7 :: List.replicate 56 0 }

theorem witness_StepKeepsTheAccounting :
    Inv accounted ∧ Accounting accounted ∧
      ∃ t, step accounted = .next t ∧ t.k = 2 ∧ t.out.length = 57 :=
  ⟨⟨by decide, ⟨by decide, by decide, by decide⟩, ⟨by decide, by decide⟩,
      ⟨inv_high_data.ranges.1.1, inv_high_data.ranges.1.2, inv_high_data.ranges.1.3, inv_high_data.ranges.1.4,
        inv_high_data.ranges.1.5, inv_high_data.ranges.1.6, inv_high_data.ranges.1.7, inv_high_data.ranges.1.8,
        inv_high_data.ranges.1.9, inv_high_data.ranges.1.10, inv_high_data.ranges.1.11, inv_high_data.ranges.1.12,
        inv_high_data.ranges.1.13⟩, by decide, by decide, by unfold BandWritten; decide⟩,
    ⟨by decide, by decide⟩, _, rfl, rfl, rfl⟩

theorem witness_StepKeepsTheDeliveredStream :
    StreamDelivered accounted ∧ ∃ t, step accounted = .next t ∧ t.ch.length = 58 :=
  ⟨fun _ => ⟨[7], rfl⟩, _, rfl, rfl⟩

/-- Two states that differ in what an earlier conversion left behind. -/
theorem witness_StaleContentsAreNeverObserved :
    (high .done).busy = false ∧ (high .done).observe = (low .done).observe ∧ high .done ≠ low .done := by decide

/-- V30's conversion, ready to run. -/
def v30 : State :=
  { asked (.encodeRec 1 0) with
    hdrAns := [.hdr 2 2], pxAns := [.px true, .px false, .px false, .px true], chAns := List.replicate 18 .ok }

/-- The closed form of R219 on V30. -/
theorem test_conversion_stream :
    conversionStream ref 1 0 2 2 [true, false, false, true] =
      [0x1B, 0x33, 0x18, 0x1B, 0x2A, 0x21, 0x02, 0x00, 0x80, 0x00, 0x00, 0x40, 0x00, 0x00, 0x0D, 0x0A, 0x1B, 0x32] := by
  decide

theorem witness_ConversionEmitsTheClosedForm :
    v30.rst = false ∧ v30.busy = false ∧ v30.cfg.wf = true ∧ precheck v30.cfg 1 0 2 2 = .pass ∧
      v30.reqs = .encodeRec 1 0 :: [] ∧ v30.hdrAns = .hdr 2 2 :: [] ∧
      ([true, false, false, true] : List Bool).length = 2 * 2 ∧
      v30.pxAns = [true, false, false, true].map .px ++ [] ∧
      v30.chAns =
        List.replicate (conversionStream v30.cfg 1 0 2 2 [true, false, false, true]).length .ok ++ [] := by decide

theorem witness_EmittedStreamIsAPrefix :
    (∀ (m : Nat) (b : Bool), m < 2 * 2 → v30.pxAns[m]? = some (.px b) → [true, false, false, true][m]? = some b) ∧
      runSteps (0 + 1) v30 =
        .next { v30 with phase := .check, res := 1, just := 0, reqs := [] } := by
  refine ⟨?_, rfl⟩
  intro m b hm
  have : m = 0 ∨ m = 1 ∨ m = 2 ∨ m = 3 := by omega
  rcases this with rfl | rfl | rfl | rfl <;> revert b <;> decide

/-- A state in `CHECK` with a header answer, and one past it without. -/
theorem witness_EveryAnsweredOperationEnds :
    (Inv (checking 1 0 (.hdr 2 2)) ∧ (checking 1 0 (.hdr 2 2)).rst = false ∧ (checking 1 0 (.hdr 2 2)).busy = true ∧
      ((checking 1 0 (.hdr 2 2)).phase = .check → (checking 1 0 (.hdr 2 2)).hdrAns ≠ [])) ∧
    (Inv (high .data) ∧ (high .data).rst = false ∧ (high .data).busy = true ∧ (high .data).hdrAns = [] ∧
      ((high .data).phase = .check → (high .data).hdrAns ≠ [])) :=
  ⟨⟨inv_checking _ _ _, by decide⟩, inv_high_data, by decide⟩

end Sys2Proof.Tests
end

section
/-! SUPPORT. What a step inside an operation leaves alone: the latched and derived registers, the configuration and the
status registers. With it the statements on `ERRLOG` and on the latched registers. -/

namespace Sys2Proof.Machine

/-! ## Moves of the sequencer -/

/-- `t` differs from `s` at most in `PHASE`, the counters, `BUF`, the history and what the environment holds. Written as
one equation, so that a concrete update of `s` meets it by `rfl`. -/
def SequencerMove (s t : State) : Prop :=
  t = { t with
    cfg := s.cfg, res := s.res, just := s.just, w := s.w, h := s.h, rowh := s.rowh, cols := s.cols, nbytes := s.nbytes,
    pad := s.pad, dens := s.dens, pitch := s.pitch, fd := s.fd, errcode := s.errcode, errlog := s.errlog }

namespace SequencerMove

variable {s t u : State}

theorem cfg (h : SequencerMove s t) : t.cfg = s.cfg := (congrArg State.cfg h :)

theorem errcode (h : SequencerMove s t) : t.errcode = s.errcode := (congrArg State.errcode h :)

theorem errlog (h : SequencerMove s t) : t.errlog = s.errlog := (congrArg State.errlog h :)

/-- What follows a byte of a frame is a move, if what follows the last byte is. -/
theorem afterByte (n : Nat) {finish : State → State} (hf : ∀ u, SequencerMove u (finish u)) (s : State) :
    SequencerMove s (afterByte n finish s) := by
  unfold Machine.afterByte
  split
  · exact hf { s with k := s.k + 1 }
  · rfl

/-- The band loop is a move (R214, R215). -/
theorem advanceBand (s : State) : SequencerMove s (advanceBand s) := by
  unfold Machine.advanceBand
  split <;> rfl

/-- What follows a byte that was written is a move, in every phase. -/
theorem afterSend (s : State) : SequencerMove s (afterSend s) := by
  have hdone : ∀ u : State, SequencerMove u { u with phase := .done } := fun _ => rfl
  unfold Machine.afterSend
  split
  · exact afterByte 3 (finish := startBand) (fun _ => rfl) s
  · rfl
  · exact afterByte 5 (finish := endHeader) (fun _ => rfl) s
  · unfold advanceData
    split <;> rfl
  · exact afterByte 2 advanceBand s
  · exact afterByte 2 hdone s
  · exact afterByte _ hdone s
  all_goals rfl

/-- The advance after a pixel is a move (R206, R208). -/
theorem advancePixel (s : State) : SequencerMove s (advancePixel s) := by
  unfold Machine.advancePixel endFill
  split_ifs <;> rfl

/-- Packing a pixel and advancing is a move (R206). -/
theorem packedPixel {x i : Nat} {p : Bool} (h : pack x i p s = .ok u) : SequencerMove s (Machine.advancePixel u) := by
  obtain ⟨-, -, -, rfl⟩ := pack_ok.1 h
  exact advancePixel { s with buf := _ }

/-- The advance of the replicated column is a move (R210). -/
theorem advanceColumn (s : State) : SequencerMove s (advanceColumn s) := by
  unfold Machine.advanceColumn
  split <;> rfl

/-- Replicating a column and advancing is a move (R210). -/
theorem replicatedColumn {x : Nat} (h : replicate x s = .ok u) : SequencerMove s (Machine.advanceColumn u) := by
  obtain ⟨-, -, -, rfl⟩ := replicate_ok.1 h
  exact advanceColumn { s with buf := _ }

end SequencerMove

/-! ## What a step writes beside the sequencer -/

theorem packedPixel_phase_ne_err {s u : State} {x i : Nat} {p : Bool} (h : s.phase ≠ .err)
    (hu : pack x i p s = .ok u) : (advancePixel u).phase ≠ .err := by
  obtain ⟨-, -, -, rfl⟩ := pack_ok.1 hu
  unfold advancePixel endFill
  split_ifs <;> simp [h]

theorem replicatedColumn_phase_ne_err {s u : State} {x : Nat} (h : s.phase ≠ .err) (hu : replicate x s = .ok u) :
    (advanceColumn u).phase ≠ .err := by
  obtain ⟨-, -, -, rfl⟩ := replicate_ok.1 hu
  unfold advanceColumn
  split <;> simp [h]

theorem afterSend_phase_ne_err {s : State} (h : s.phase ≠ .err) : (afterSend s).phase ≠ .err := by
  unfold afterSend afterByte advanceData advanceBand endHeader
  repeat' split
  all_goals simp [h]

/-- The kinds of step by what they write beside the sequencer, the history and the inputs: everything at reset, what an
acceptance or a passed `CHECK` latches, the status of an error, or nothing. -/
inductive StepEffect (s : State) : State → Prop where
  | reset (h : s.rst = true) : StepEffect s (applyReset s)
  | encode (r j : Byte) (rest : List Request) (hb : s.busy = false) :
      StepEffect s (latchEncode r j { s with reqs := rest })
  | frame (fd : FrameDesc) (rest : List Request) (hb : s.busy = false) :
      StepEffect s (latchFrame fd { s with reqs := rest })
  | image (w h : Nat) (as : List HdrAnswer) (hp : s.phase = .check) :
      StepEffect s (latchImage w h { s with hdrAns := as })
  | raises (e : ErrorKind) {u : State} (hu : SequencerMove s u) : StepEffect s (raise e u)
  | moves {t : State} (hm : SequencerMove s t) (he : t.phase = .err ↔ s.phase = .err) : StepEffect s t

/-- The kind of every step. -/
theorem StepCase.effect {s t : State} (h : StepCase s t) : StepEffect s t := by
  cases h with
  | reset h => exact .reset h
  | waits => exact .moves rfl Iff.rfl
  | acceptEncode _ hb => exact .encode _ _ _ hb
  | acceptFrame _ hb => exact .frame _ _ hb
  | headerRaises | pixelRaises | sendFails => exact .raises _ rfl
  | headerPasses _ hp => exact .image _ _ _ hp
  | paddingDone _ hp => exact .moves rfl (by simp [hp])
  | pixel _ hp _ _ hu | clearPixel _ hp _ hu =>
    have hm := SequencerMove.packedPixel hu
    exact .moves hm (iff_of_false (packedPixel_phase_ne_err (by simp [hp]) hu) (by simp [hp]))
  | replicates _ hp hu =>
    have hm := SequencerMove.replicatedColumn hu
    exact .moves hm (iff_of_false (replicatedColumn_phase_ne_err (by simp [hp]) hu) (by simp [hp]))
  | sent _ hb =>
    have hne : s.phase ≠ .err := fun hp => by simp [emitted, hp] at hb
    exact .moves (SequencerMove.afterSend { s with chAns := _, out := _, ch := _ })
      (iff_of_false (afterSend_phase_ne_err hne) hne)

/-! ## The statements on `ERRLOG` and on the latched registers -/

/-- Settles O43: only an error writes `ERRLOG`, and it only sets a bit. -/
theorem errorLogIsSticky : Obligations.ErrorLogIsSticky := by
  intro s t hr h
  cases (step_cases h).effect with
  | reset hrst => simp [hr] at hrst
  | encode | frame | image => exact ⟨fun _ hn => hn, fun hne => absurd rfl hne⟩
  | raises e hu => exact ⟨fun n hn => by simp [hu.errlog, hn], fun _ => rfl⟩
  | moves hm => exact ⟨fun n hn => by rwa [hm.errlog], fun hne => absurd hm.errlog hne⟩

/-- Settles O47: an acceptance is taken at `BUSY` = 0, the derived registers are written by a passed `CHECK` only, and
every other step moves the sequencer or raises an error. -/
theorem latchedRegistersAreStable : Obligations.LatchedRegistersAreStable := by
  intro s t h
  cases (step_cases h).effect with
  | reset hrst => exact ⟨rfl, by simp [hrst], by simp [hrst]⟩
  | encode _ _ _ hb | frame _ _ hb =>
    exact ⟨rfl, by simp [hb], fun _ _ => ⟨rfl, rfl, rfl, rfl, rfl, rfl, rfl, rfl⟩⟩
  | image _ _ _ hp => exact ⟨rfl, fun _ _ => ⟨rfl, rfl, rfl⟩, fun _ hne => absurd hp hne⟩
  | raises _ hm | moves hm =>
    unfold SequencerMove at hm
    rw [hm]
    exact ⟨rfl, fun _ _ => ⟨rfl, rfl, rfl⟩, fun _ _ => ⟨rfl, rfl, rfl, rfl, rfl, rfl, rfl, rfl⟩⟩

end Sys2Proof.Machine
end

section
/-! SUPPORT. Every step keeps the invariant, part by part: the status registers, `BUF`, and the ranges of each phase. -/

namespace Sys2Proof.Machine

/-! ## The status registers (R28) -/

/-- Outside `ERR` a legal `ERRCODE` is 0. -/
theorem StatusLegal.errcode_eq_zero {s : State} (h : StatusLegal s) (hp : s.phase ≠ .err) : s.errcode = 0 :=
  not_not.1 (mt h.err_iff.2 hp)

theorem statusLegal_of_clear {s : State} (hp : s.phase ≠ .err) (hc : s.errcode = 0) : StatusLegal s :=
  ⟨by simp [hc], iff_of_false hp (not_not.2 hc), fun h => absurd hc h⟩

/-- An error leaves a legal status, whatever the status was. -/
theorem raise_statusLegal (e : ErrorKind) (s : State) : StatusLegal (raise e s) := by
  cases e <;> exact ⟨by simp [ErrorKind.code], by simp [ErrorKind.code], by simp [ErrorKind.code, ErrorKind.logBit]⟩

/-- Every step keeps the status registers legal. -/
theorem step_keeps_status {s t : State} (hs : StatusLegal s) (h : step s = .next t) : StatusLegal t := by
  cases (step_cases h).effect with
  | reset | encode | frame => exact statusLegal_of_clear nofun rfl
  | image _ _ _ hp => exact statusLegal_of_clear nofun (hs.errcode_eq_zero (by simp [hp]))
  | raises e => exact raise_statusLegal e _
  | moves hm he =>
    exact ⟨by simpa [hm.errcode] using hs.code_range, by simpa [hm.errcode, he] using hs.err_iff,
      by simpa [hm.errcode, hm.errlog] using hs.logged⟩

/-! ## `BUF` (R60) -/

theorem BufferLegal.write {s : State} (h : BufferLegal s) {a : Nat} (ha : a < s.cfg.bufBytes) (v : Byte) :
    BufferLegal { s with buf := s.buf.write a v } :=
  ⟨Memory.write_wf a v h.canonical, fun e he => by
    rcases Memory.mem_write he with rfl | he
    · exact ha
    · exact h.bounded e he⟩

theorem BufferLegal.pack {s u : State} {x i : Nat} {p : Bool} (h : BufferLegal s) (hu : pack x i p s = .ok u) :
    BufferLegal u := by
  obtain ⟨ha, -, -, rfl⟩ := pack_ok.1 hu
  exact h.write ha _

theorem BufferLegal.replicate {s u : State} {x : Nat} (h : BufferLegal s) (hu : replicate x s = .ok u) :
    BufferLegal u := by
  obtain ⟨ha, v, -, rfl⟩ := replicate_ok.1 hu
  exact (h.write (a := 3 * x + 1) (by omega) v).write ha v

theorem BufferLegal.startBand {s : State} (h : BufferLegal s) : BufferLegal (startBand s) :=
  ⟨Memory.clearBelow_wf _ h.canonical, fun e he => by
    rcases Memory.mem_clearBelow he with he | he
    · exact lt_of_lt_of_le he (Nat.min_le_right _ _)
    · exact h.bounded e he⟩

theorem BufferLegal.congr {s t : State} (h : BufferLegal s) (hc : t.cfg = s.cfg) (hb : t.buf = s.buf) : BufferLegal t :=
  ⟨hb ▸ h.canonical, by rw [hb, hc]; exact h.bounded⟩

theorem BufferLegal.afterByte {s : State} (h : BufferLegal s) (n : Nat) {finish : State → State}
    (hf : ∀ u, BufferLegal u → BufferLegal (finish u)) : BufferLegal (afterByte n finish s) := by
  have hk : BufferLegal { s with k := s.k + 1 } := h.congr rfl rfl
  unfold Machine.afterByte
  split
  · exact hf _ hk
  · exact hk

theorem BufferLegal.advanceBand {s : State} (h : BufferLegal s) : BufferLegal (advanceBand s) := by
  have hy : BufferLegal { s with y := s.y + s.rowh } := h.congr rfl rfl
  unfold Machine.advanceBand
  split
  · exact hy.startBand
  · exact hy.congr rfl rfl

theorem BufferLegal.afterSend {s : State} (h : BufferLegal s) : BufferLegal (afterSend s) := by
  have hend : ∀ u, BufferLegal u → BufferLegal (endHeader u) := fun _ hu => hu.congr rfl rfl
  have hdone : ∀ u, BufferLegal u → BufferLegal { u with phase := .done } := fun _ hu => hu.congr rfl rfl
  unfold Machine.afterSend
  split
  · exact h.afterByte 3 fun _ => startBand
  · exact h.congr rfl rfl
  · exact h.afterByte 5 hend
  · unfold advanceData
    split <;> exact h.congr rfl rfl
  · exact h.afterByte 2 fun _ => advanceBand
  · exact h.afterByte 2 hdone
  · exact h.afterByte _ hdone
  all_goals exact h

theorem BufferLegal.packedPixel {s u : State} {x i : Nat} {p : Bool} (h : BufferLegal s)
    (hu : Machine.pack x i p s = .ok u) : BufferLegal (advancePixel u) := by
  have hbuf : (advancePixel u).buf = u.buf := by
    unfold advancePixel endFill
    split_ifs <;> rfl
  exact (h.pack hu).congr (SequencerMove.advancePixel u).cfg hbuf

theorem BufferLegal.replicatedColumn {s u : State} {x : Nat} (h : BufferLegal s)
    (hu : Machine.replicate x s = .ok u) : BufferLegal (advanceColumn u) := by
  have hbuf : (advanceColumn u).buf = u.buf := by
    unfold advanceColumn
    split <;> rfl
  exact (h.replicate hu).congr (SequencerMove.advanceColumn u).cfg hbuf

/-- Every step keeps `BUF` canonical and in its bounds. -/
theorem step_keeps_buffer {s t : State} (hs : BufferLegal s) (h : step s = .next t) : BufferLegal t := by
  cases step_cases h with
  | reset => exact ⟨Memory.reset_wf, nofun⟩
  | waits => exact hs
  | acceptEncode | acceptFrame | headerRaises | headerPasses | pixelRaises | paddingDone | sendFails =>
    exact hs.congr rfl rfl
  | pixel _ _ _ _ hu =>
    refine BufferLegal.packedPixel ?_ hu
    exact hs.congr rfl rfl
  | clearPixel _ _ _ hu => exact hs.packedPixel hu
  | replicates _ _ hu => exact hs.replicatedColumn hu
  | sent =>
    refine BufferLegal.afterSend ?_
    exact hs.congr rfl rfl

/-! ## The ranges of each phase (R22 to R26) -/

/-- The registers of a conversion stay in their ranges when only the sequencer moves, if `Y` stays a band start. -/
theorem ConversionRegs.move {s t : State} (h : ConversionRegs s) (hm : SequencerMove s t) (hb : s.rowh ∣ t.y) :
    ConversionRegs t := by
  unfold SequencerMove at hm
  rw [hm]
  exact ⟨h.res, h.just, h.w_pos, h.h_pos, h.h_fits, h.fits, h.rowh, h.cols, h.nbytes, h.pad, h.dens, h.pitch, hb⟩

/-- What a passed `CHECK` derives (R204). -/
theorem latchImage_conversionRegs {s : State} {w h : Nat} (hc : precheck s.cfg s.res s.just w h = .pass) :
    ConversionRegs (latchImage w h s) := by
  obtain ⟨hw, hh, hres, hjust, hfits, hdim⟩ := (precheck_pass_iff _ _ _ _ _).1 hc
  exact ⟨hres, hjust, hw, hh, hdim, hfits, rfl, rfl, Nat.mul_comm _ _, rfl, rfl, rfl, Nat.dvd_zero _⟩

theorem rowhOf_pos (res : Byte) : 0 < rowhOf res := by
  unfold rowhOf
  split <;> decide

/-- A band of an accepted image fits `BUF` (R7, R60). -/
theorem ConversionRegs.nbytes_le {s : State} (h : ConversionRegs s) (hc : s.cfg.wf = true) :
    s.nbytes ≤ s.cfg.bufBytes := by
  obtain ⟨-, -, -, -, hlow, hhigh, -⟩ := (Config_wf_iff _).1 hc
  have hfits := h.fits
  rw [idw_eq hc] at hfits
  have hn := h.nbytes
  unfold limitOf at hfits
  split at hfits <;> omega

theorem ConversionRegs.nbytes_pos {s : State} (h : ConversionRegs s) : 0 < s.nbytes := by
  rw [h.nbytes]
  exact Nat.mul_pos (by decide) h.w_pos

theorem BandWritten.write {s : State} (h : BandWritten s) (a : Nat) (v : Byte) :
    BandWritten { s with buf := s.buf.write a v } := by
  intro n hn
  show ((s.buf.write a v).read n).isSome = true
  rw [Memory.read_write]
  split
  · rfl
  · exact h n hn

/-- A band starts in the ranges of `FILL`, with every byte of it written (R205, R215). -/
theorem startBand_ranges {s : State} (hc : s.cfg.wf = true) (hr : ConversionRegs s) (hy : s.y < s.h) :
    PhaseRanges (startBand s) := by
  have hw : BandWritten (startBand s) := by
    intro n hn
    have hlt : n < min s.nbytes s.cfg.bufBytes := lt_min hn (lt_of_lt_of_le hn (hr.nbytes_le hc))
    simp [Memory.read_clearBelow, hlt]
  have hi : 0 < s.rowh := hr.rowh ▸ rowhOf_pos _
  exact ⟨hr.move rfl hr.band, hy, hi, hr.w_pos, hw⟩

/-- The band loop restarts in range or leaves with `Y` at most `H + ROWH - 1` (R214, R215). -/
theorem advanceBand_ranges {s : State} (hc : s.cfg.wf = true) (hr : ConversionRegs s) (hy : s.y < s.h) :
    PhaseRanges (advanceBand s) := by
  have hband : s.rowh ∣ s.y + s.rowh := Nat.dvd_add hr.band (Nat.dvd_refl _)
  unfold advanceBand
  split
  · next hlt => exact startBand_ranges hc (hr.move rfl hband) hlt
  · next hge =>
    refine ⟨hr.move rfl hband, ?_, ?_, ?_⟩
    · exact Nat.le_of_not_lt hge
    · show s.y + s.rowh ≤ s.h + s.rowh - 1
      omega
    · exact Nat.two_pos

/-- Packing a pixel and advancing stays in range (R206, R208). -/
theorem packedPixel_ranges {s u : State} {x i : Nat} {p : Bool} (hp : s.phase = .fill) (hR : PhaseRanges s)
    (hu : pack x i p s = .ok u) : PhaseRanges (advancePixel u) := by
  obtain ⟨-, old, -, rfl⟩ := pack_ok.1 hu
  simp only [PhaseRanges, hp] at hR
  obtain ⟨hr, hy, hi, hx, hw⟩ := hR
  have hw' := hw.write (packAddr x i) (packByte old i p)
  unfold advancePixel endFill
  split_ifs with hlast hrow hlow
  · exact ⟨hr.move rfl hr.band, hlow, hy, hr.w_pos, hw'⟩
  · exact ⟨hr.move rfl hr.band, hy, Nat.zero_le _, hw'⟩
  · simp only [PhaseRanges, hp]
    exact ⟨hr.move rfl hr.band, hy, lt_of_le_of_ne hi hrow, hr.w_pos, hw'⟩
  · simp only [PhaseRanges, hp]
    exact ⟨hr.move rfl hr.band, hy, hi, lt_of_le_of_ne hx hlast, hw'⟩

/-- Replicating a column and advancing stays in range (R210). -/
theorem replicatedColumn_ranges {s u : State} {x : Nat} (hp : s.phase = .repl) (hR : PhaseRanges s)
    (hu : replicate x s = .ok u) : PhaseRanges (advanceColumn u) := by
  obtain ⟨-, v, -, rfl⟩ := replicate_ok.1 hu
  simp only [PhaseRanges, hp] at hR
  obtain ⟨hr, hlow, hy, hx, hw⟩ := hR
  have hw' := (hw.write (3 * x + 1) v).write (3 * x + 2) v
  unfold advanceColumn
  split_ifs with hlast
  · exact ⟨hr.move rfl hr.band, hy, Nat.zero_le _, hw'⟩
  · simp only [PhaseRanges, hp]
    exact ⟨hr.move rfl hr.band, hlow, hy, lt_of_le_of_ne hx hlast, hw'⟩

/-- The ranges do not depend on the history or on what the environment holds. -/
theorem PhaseRanges.transact {s t : State} (h : PhaseRanges s)
    (ht : t = { s with out := t.out, npx := t.npx, pxAns := t.pxAns, chAns := t.chAns, ch := t.ch }) :
    PhaseRanges t := by
  rw [ht]
  cases hp : s.phase with
  | idle | check | done | err => simp only [PhaseRanges]
  | frame => simpa only [PhaseRanges, hp] using h
  | _ =>
    simp only [PhaseRanges, hp] at h ⊢
    exact h.imp_left fun hr => hr.move rfl hr.band

/-- A space is written only while `K < PAD` (R209). -/
theorem lt_pad_of_emitted {s : State} {b : Byte} (hp : s.phase = .padout) (hb : emitted s = some b) : s.k < s.pad := by
  by_contra hk
  simp [emitted, hp, hk] at hb

/-- What follows a byte that was written stays in range, in every phase. -/
theorem afterSend_ranges {s : State} (hc : s.busy = true → s.cfg.wf = true) (hR : PhaseRanges s)
    (hpad : s.phase = .padout → s.k < s.pad) : PhaseRanges (afterSend s) := by
  cases hp : s.phase with
  | idle | check | fill | repl | done | err => simpa only [afterSend, hp] using hR
  | setup =>
    simp only [PhaseRanges, hp] at hR
    obtain ⟨hr, hy, hk⟩ := hR
    simp only [afterSend, hp, afterByte]
    split_ifs with hlast
    · refine startBand_ranges (hc (by simp [State.busy, hp, Phase.quiescent])) (hr.move rfl hr.band) ?_
      show s.y < s.h
      exact hy ▸ hr.h_pos
    · exact ⟨hr.move rfl hr.band, hy, lt_of_le_of_ne hk hlast⟩
  | padout =>
    have hk := hpad hp
    simp only [PhaseRanges, hp] at hR
    obtain ⟨hr, hy, -, hw⟩ := hR
    simp only [afterSend, hp]
    exact ⟨hr.move rfl hr.band, hy, hk, hw⟩
  | hdr =>
    simp only [PhaseRanges, hp] at hR
    obtain ⟨hr, hy, hk, hw⟩ := hR
    simp only [afterSend, hp, afterByte]
    split_ifs with hlast
    · exact ⟨hr.move rfl hr.band, hy, hr.nbytes_pos, hw⟩
    · exact ⟨hr.move rfl hr.band, hy, lt_of_le_of_ne hk hlast, hw⟩
  | data =>
    simp only [PhaseRanges, hp] at hR
    obtain ⟨hr, hy, hk, hw⟩ := hR
    simp only [afterSend, hp, advanceData]
    split_ifs with hlast
    · exact ⟨hr.move rfl hr.band, hy, Nat.two_pos, hw⟩
    · exact ⟨hr.move rfl hr.band, hy, lt_of_le_of_ne hk hlast, hw⟩
  | trail =>
    simp only [PhaseRanges, hp] at hR
    obtain ⟨hr, hy, hk, hw⟩ := hR
    simp only [afterSend, hp, afterByte]
    split_ifs with hlast
    · exact advanceBand_ranges (hc (by simp [State.busy, hp, Phase.quiescent])) (hr.move rfl hr.band) hy
    · exact ⟨hr.move rfl hr.band, hy, lt_of_le_of_ne hk hlast, hw⟩
  | restore =>
    simp only [PhaseRanges, hp] at hR
    obtain ⟨hr, hlo, hhi, hk⟩ := hR
    simp only [afterSend, hp, afterByte]
    split_ifs with hlast
    · trivial
    · exact ⟨hr.move rfl hr.band, hlo, hhi, lt_of_le_of_ne hk hlast⟩
  | frame =>
    simp only [PhaseRanges, hp] at hR
    obtain ⟨hpar, hk⟩ := hR
    simp only [afterSend, hp, afterByte]
    split_ifs with hlast
    · trivial
    · exact ⟨hpar, lt_of_le_of_ne hk hlast⟩

/-- Every step keeps the ranges of its phase, if a busy machine has a well-formed configuration. -/
theorem step_keeps_ranges {s t : State} (hc : s.busy = true → s.cfg.wf = true) (hR : PhaseRanges s)
    (h : step s = .next t) : PhaseRanges t := by
  cases step_cases h with
  | reset | acceptEncode | headerRaises | pixelRaises | sendFails => trivial
  | waits => exact hR
  | acceptFrame _ _ _ _ _ hf => exact ⟨hf, Nat.zero_lt_succ _⟩
  | headerPasses _ _ _ hpass => exact ⟨latchImage_conversionRegs hpass, rfl, Nat.zero_lt_succ _⟩
  | pixel _ hp _ _ hu =>
    refine packedPixel_ranges ?_ ?_ hu
    · exact hp
    · exact hR.transact rfl
  | clearPixel _ hp _ hu => exact packedPixel_ranges hp hR hu
  | replicates _ hp hu => exact replicatedColumn_ranges hp hR hu
  | paddingDone _ hp =>
    simp only [PhaseRanges, hp] at hR
    obtain ⟨hr, hy, -, hw⟩ := hR
    exact ⟨hr.move rfl hr.band, hy, Nat.zero_lt_succ _, hw⟩
  | sent _ hb => exact afterSend_ranges hc (hR.transact rfl) fun hp => lt_pad_of_emitted (s := s) hp hb

/-- Settles O50: the four parts of the invariant are kept each by itself. -/
theorem stepKeepsTheInvariant : Obligations.StepKeepsTheInvariant := by
  intro s t hs h
  have hcfg : t.cfg = s.cfg := (latchedRegistersAreStable s t h).1
  exact ⟨by rw [hcfg]; exact hs.config, step_keeps_status hs.status h, step_keeps_buffer hs.buffer h,
    step_keeps_ranges (fun _ => hs.config) hs.ranges h⟩

end Sys2Proof.Machine
end

section
/-! SUPPORT. Noninterference: each phase reads only what its operation has written (R33, R221). Two states that look
alike from outside and agree on what their phase reads keep doing so. -/

namespace Sys2Proof.Machine

/-! ## States that look alike -/

/-- The registers of R22 and R23. -/
structure Registers where
  res : Byte
  just : Byte
  w : Nat
  h : Nat
  rowh : Nat
  cols : Nat
  nbytes : Nat
  pad : Nat
  dens : Byte
  pitch : Byte

/-- The request and derived registers of a state. -/
def State.registers (s : State) : Registers :=
  ⟨s.res, s.just, s.w, s.h, s.rowh, s.cols, s.nbytes, s.pad, s.dens, s.pitch⟩

/-- The two states hold the same bytes of the band. -/
def SameBand (s t : State) : Prop := ∀ n < s.nbytes, s.buf.read n = t.buf.read n

/-- The two states agree on the registers, the counters and the band of a conversion, from its first band on. -/
structure SameConversion (s t : State) : Prop where
  registers : s.registers = t.registers
  y : s.y = t.y
  i : s.i = t.i
  x : s.x = t.x
  k : s.k = t.k
  band : SameBand s t

/-- The two states agree on what the operation that runs has written so far, the only things it will read. -/
def SameLive (s t : State) : Prop :=
  match s.phase with
  | .idle | .done | .err => True
  | .check => s.res = t.res ∧ s.just = t.just
  | .setup => s.registers = t.registers ∧ s.y = t.y ∧ s.k = t.k
  | .fill | .repl | .padout | .hdr | .data | .trail | .restore => SameConversion s t
  | .frame => s.fd = t.fd ∧ s.k = t.k

/-- The two states look alike from outside, and will after every step. -/
structure Alike (s t : State) : Prop where
  observe : s.observe = t.observe
  live : SameLive s t

/-- Two outcomes are the same stop, or next states in the relation. -/
inductive OutcomesIn (R : State → State → Prop) : Result → Result → Prop where
  | next {s t : State} (h : R s t) : OutcomesIn R (.next s) (.next t)
  | fault (f : Fault) : OutcomesIn R (.fault f) (.fault f)
  | refused (r : Refusal) : OutcomesIn R (.refused r) (.refused r)

section
variable {s t : State}

theorem cfg_eq_of_observe (h : s.observe = t.observe) : s.cfg = t.cfg := (congrArg Observed.cfg h :)

theorem phase_eq_of_observe (h : s.observe = t.observe) : s.phase = t.phase := (congrArg Observed.phase h :)

theorem rst_eq_of_observe (h : s.observe = t.observe) : s.rst = t.rst := (congrArg Observed.rst h :)

theorem reqs_eq_of_observe (h : s.observe = t.observe) : s.reqs = t.reqs := (congrArg Observed.reqs h :)

theorem hdrAns_eq_of_observe (h : s.observe = t.observe) : s.hdrAns = t.hdrAns := (congrArg Observed.hdrAns h :)

theorem pxAns_eq_of_observe (h : s.observe = t.observe) : s.pxAns = t.pxAns := (congrArg Observed.pxAns h :)

theorem chAns_eq_of_observe (h : s.observe = t.observe) : s.chAns = t.chAns := (congrArg Observed.chAns h :)

theorem busy_eq_of_observe (h : s.observe = t.observe) : s.busy = t.busy := by
  unfold State.busy
  rw [phase_eq_of_observe h]

section
variable (h : s.registers = t.registers)
include h

theorem res_eq_of_registers : s.res = t.res := (congrArg Registers.res h :)

theorem w_eq_of_registers : s.w = t.w := (congrArg Registers.w h :)

theorem h_eq_of_registers : s.h = t.h := (congrArg Registers.h h :)

theorem rowh_eq_of_registers : s.rowh = t.rowh := (congrArg Registers.rowh h :)

theorem cols_eq_of_registers : s.cols = t.cols := (congrArg Registers.cols h :)

theorem nbytes_eq_of_registers : s.nbytes = t.nbytes := (congrArg Registers.nbytes h :)

theorem pad_eq_of_registers : s.pad = t.pad := (congrArg Registers.pad h :)

theorem dens_eq_of_registers : s.dens = t.dens := (congrArg Registers.dens h :)

theorem pitch_eq_of_registers : s.pitch = t.pitch := (congrArg Registers.pitch h :)

end

/-- States that look alike still do when both come to the same phase and agree on what that phase reads. -/
theorem enter_alike {u v : State} (p : Phase) (h : s.observe = t.observe)
    (hu : u.observe = { s.observe with phase := p }) (hv : v.observe = { t.observe with phase := p })
    (hl : SameLive u v) : Alike u v :=
  ⟨by rw [hu, hv, h], hl⟩

/-- An error leaves nothing to be read (R284). -/
theorem raise_alike (e : ErrorKind) (h : s.observe = t.observe) : Alike (raise e s) (raise e t) :=
  ⟨congrArg (fun o : Observed => { o with errcode := e.code, errlog := o.errlog ||| e.logBit, phase := .err }) h,
    trivial⟩

theorem applyReset_alike (h : s.observe = t.observe) : Alike (applyReset s) (applyReset t) :=
  ⟨congrArg (fun o : Observed =>
    { State.reset.observe with
      cfg := o.cfg, reqs := o.reqs, hdrAns := o.hdrAns, pxAns := o.pxAns, chAns := o.chAns, ch := o.ch }) h, trivial⟩

theorem beginOperation_observe (h : s.observe = t.observe) : (beginOperation s).observe = (beginOperation t).observe :=
  congrArg (fun o : Observed => { o with errcode := 0, out := [], npx := 0 }) h

/-! ## Acceptance -/

theorem whenIdle_alike {f g : State → Result} (h : s.observe = t.observe) (hb : s.busy = false)
    (hfg : OutcomesIn Alike (f s) (g t)) : OutcomesIn Alike (whenIdle f s) (whenIdle g t) := by
  unfold whenIdle
  rw [← busy_eq_of_observe h, ← cfg_eq_of_observe h, hb]
  split
  · contradiction
  · split
    · exact hfg
    · exact .refused _

theorem requestFrame_alike {fd fd' : FrameDesc} (h : s.observe = t.observe) (hb : s.busy = false) (hfd : fd = fd') :
    OutcomesIn Alike (requestFrame fd s) (requestFrame fd' t) := by
  subst hfd
  refine whenIdle_alike h hb ?_
  rw [← cfg_eq_of_observe h]
  split
  · exact .next ⟨congrArg (fun o : Observed => { o with phase := .frame }) (beginOperation_observe h), rfl, rfl⟩
  · exact .refused _

/-- A request presented to two quiescent states that look alike has the same outcome (R231, R202). -/
theorem exec_alike (i : Instr) (h : s.observe = t.observe) (hb : s.busy = false) :
    OutcomesIn Alike (exec i s) (exec i t) := by
  have hcfg := cfg_eq_of_observe h
  have key : ∀ {fd fd' : FrameDesc}, fd = fd' → OutcomesIn Alike (requestFrame fd s) (requestFrame fd' t) :=
    requestFrame_alike h hb
  cases i with
  | encode r j =>
    show OutcomesIn Alike (execEncode r j s) (execEncode r j t)
    refine whenIdle_alike h hb ?_
    exact .next ⟨congrArg (fun o : Observed => { o with phase := .check }) (beginOperation_observe h), rfl, rfl⟩
  | frame | lsp | lspd | pcut | bcw | bch | bctp => exact key rfl
  | buzz | font | dblp | emph | inv | mirr | rot => exact key (by rw [hcfg])
  | ul | chsz | bcode =>
    simp only [exec, execUl, execChsz, execBcode, hcfg]
    split
    · exact key rfl
    · exact .refused _
  | bimg | padrun =>
    have hpt := phase_eq_of_observe h
    rcases (busy_eq_false_iff s).1 hb with hp | hp | hp <;> rw [hp] at hpt <;>
      simp only [exec, execBimg, execPadrun, hp, ← hpt] <;> exact .refused _

/-- A quiescent state has nothing left to be read. -/
theorem sameLive_of_quiescent (hb : s.busy = false) : SameLive s t := by
  rcases (busy_eq_false_iff s).1 hb with hp | hp | hp <;> simp only [SameLive, hp]

theorem fetched_alike (h : s.observe = t.observe) (hr : s.rst = false) (hb : s.busy = false) :
    OutcomesIn Alike (step s) (step t) := by
  rw [step_quiescent hr hb, step_quiescent (rst_eq_of_observe h ▸ hr) (busy_eq_of_observe h ▸ hb)]
  have hd : ∀ q, decode t.cfg q = decode s.cfg q := fun q => by rw [cfg_eq_of_observe h]
  unfold fetch
  rw [← reqs_eq_of_observe h]
  cases s.reqs with
  | nil => exact .next ⟨h, sameLive_of_quiescent hb⟩
  | cons q rest =>
    dsimp only
    rw [hd q]
    cases decode s.cfg q with
    | error e => exact .refused _
    | ok i =>
      refine exec_alike i ?_ hb
      exact congrArg (fun o : Observed => { o with reqs := rest }) h

/-! ## Transactions -/

/-- What is live does not depend on the history or on what the environment holds. -/
theorem Alike.transact {u v : State} (h : Alike s t)
    (hu : u = { s with out := u.out, npx := u.npx, pxAns := u.pxAns, chAns := u.chAns, ch := u.ch })
    (hv : v = { t with out := v.out, npx := v.npx, pxAns := v.pxAns, chAns := v.chAns, ch := v.ch })
    (ho : u.observe = v.observe) : Alike u v := by
  have hl := h.live
  refine ⟨ho, ?_⟩
  rw [hu, hv]
  cases hp : s.phase with
  | idle | done | err => simp only [SameLive]
  | check | setup | frame =>
    simp only [SameLive, hp] at hl ⊢
    exact hl
  | _ =>
    simp only [SameLive, hp] at hl ⊢
    exact ⟨hl.registers, hl.y, hl.i, hl.x, hl.k, hl.band⟩

/-- A byte written to two channels that answer alike. -/
theorem chPut_alike (b : Byte) {f g : State → State} (h : Alike s t)
    (hok : ∀ as, Alike (f { s with chAns := as, out := s.out ++ [b], ch := s.ch ++ [b] })
      (g { t with chAns := as, out := t.out ++ [b], ch := t.ch ++ [b] })) :
    OutcomesIn Alike (chPut b f s) (chPut b g t) := by
  unfold chPut
  rw [← chAns_eq_of_observe h.observe]
  split
  · exact .next h
  · exact .next (hok _)
  · next as _ => exact .next (raise_alike _ (congrArg (fun o : Observed => { o with chAns := as }) h.observe))

theorem srcNext_alike {f g : Bool → State → Result} (h : Alike s t)
    (hpx : ∀ p as, OutcomesIn Alike (f p { s with pxAns := as, npx := s.npx + 1 })
      (g p { t with pxAns := as, npx := t.npx + 1 })) :
    OutcomesIn Alike (srcNext f s) (srcNext g t) := by
  have hrest : ∀ as, { s with pxAns := as }.observe = { t with pxAns := as }.observe :=
    fun as => congrArg (fun o : Observed => { o with pxAns := as }) h.observe
  unfold srcNext
  rw [← pxAns_eq_of_observe h.observe]
  split
  · exact .next h
  · exact hpx _ _
  · exact .next (raise_alike _ (hrest _))
  · exact .next (raise_alike _ (hrest _))

theorem srcHdr_alike {f g : Nat → Nat → State → Result} (h : Alike s t)
    (hhdr : ∀ w n as, OutcomesIn Alike (f w n { s with hdrAns := as }) (g w n { t with hdrAns := as })) :
    OutcomesIn Alike (srcHdr f s) (srcHdr g t) := by
  have hrest : ∀ as, { s with hdrAns := as }.observe = { t with hdrAns := as }.observe :=
    fun as => congrArg (fun o : Observed => { o with hdrAns := as }) h.observe
  unfold srcHdr
  rw [← hdrAns_eq_of_observe h.observe]
  split
  · exact .next h
  · exact hhdr _ _ _
  · exact .next (raise_alike _ (hrest _))
  · exact .next (raise_alike _ (hrest _))

/-! ## The steps of a conversion -/

theorem checkStep_alike (h : Alike s t) (hp : s.phase = .check) : OutcomesIn Alike (checkStep s) (checkStep t) := by
  obtain ⟨ho, hl⟩ := id h
  simp only [SameLive, hp] at hl
  obtain ⟨hres, hjust⟩ := hl
  refine srcHdr_alike h fun w n as => ?_
  have hpre : precheck t.cfg t.res t.just w n = precheck s.cfg s.res s.just w n := by
    rw [cfg_eq_of_observe ho, hres, hjust]
  unfold checkHeader
  dsimp only
  rw [hpre]
  split
  · refine .next ⟨congrArg (fun o : Observed => { o with hdrAns := as, phase := .setup }) ho, ?_, rfl, rfl⟩
    simp only [State.registers, latchImage, cfg_eq_of_observe ho, hres, hjust]
  · exact .next (raise_alike _ (congrArg (fun o : Observed => { o with hdrAns := as }) ho))
  · exact .refused _

/-- The same byte written to both bands. -/
theorem SameConversion.write (h : SameConversion s t) (a : Nat) (v : Byte) :
    SameConversion { s with buf := s.buf.write a v } { t with buf := t.buf.write a v } := by
  refine ⟨h.registers, h.y, h.i, h.x, h.k, fun n hn => ?_⟩
  show (s.buf.write a v).read n = (t.buf.write a v).read n
  rw [Memory.read_write, Memory.read_write, h.band n hn]

theorem advancePixel_alike (ho : s.observe = t.observe) (hs : SameConversion s t) (hp : s.phase = .fill) :
    Alike (advancePixel s) (advancePixel t) := by
  have hlast : (t.x + 1 = t.w) = (s.x + 1 = s.w) := by rw [hs.x, w_eq_of_registers hs.registers]
  have hrow : (t.i + 1 = t.rowh) = (s.i + 1 = s.rowh) := by rw [hs.i, rowh_eq_of_registers hs.registers]
  have hlow : (t.res = 0) = (s.res = 0) := by rw [res_eq_of_registers hs.registers]
  have hi : s.i + 1 = t.i + 1 := congrArg (· + 1) hs.i
  simp only [advancePixel, endFill, hlast, hrow, hlow]
  split_ifs
  · exact enter_alike .repl ho rfl rfl ⟨hs.registers, hs.y, hi, rfl, hs.k, hs.band⟩
  · exact enter_alike .padout ho rfl rfl ⟨hs.registers, hs.y, hi, rfl, rfl, hs.band⟩
  · refine ⟨ho, ?_⟩
    simp only [SameLive, hp]
    exact ⟨hs.registers, hs.y, hi, rfl, hs.k, hs.band⟩
  · refine ⟨ho, ?_⟩
    simp only [SameLive, hp]
    exact ⟨hs.registers, hs.y, hs.i, congrArg (· + 1) hs.x, hs.k, hs.band⟩

theorem advanceColumn_alike (ho : s.observe = t.observe) (hs : SameConversion s t) (hp : s.phase = .repl) :
    Alike (advanceColumn s) (advanceColumn t) := by
  have hlast : (t.x + 1 = t.w) = (s.x + 1 = s.w) := by rw [hs.x, w_eq_of_registers hs.registers]
  have hx : s.x + 1 = t.x + 1 := congrArg (· + 1) hs.x
  simp only [advanceColumn, hlast]
  split_ifs
  · exact enter_alike .padout ho rfl rfl ⟨hs.registers, hs.y, hs.i, hx, rfl, hs.band⟩
  · refine ⟨ho, ?_⟩
    simp only [SameLive, hp]
    exact ⟨hs.registers, hs.y, hs.i, hx, hs.k, hs.band⟩

/-- The byte `PACK` touches is one of the band (R62). -/
theorem packAddr_lt {x i : Nat} (hr : ConversionRegs s) (hi : i < s.rowh) (hx : x < s.w) : packAddr x i < s.nbytes := by
  have hrowh : s.rowh ≤ 24 := by
    rw [hr.rowh]
    unfold rowhOf
    split <;> decide
  rw [hr.nbytes]
  unfold packAddr Config.bpc
  omega

theorem packPixel_alike (p : Bool) (h : Alike s t) (hp : s.phase = .fill) (hc : s.cfg.wf = true) (hR : PhaseRanges s) :
    OutcomesIn Alike (packPixel p s) (packPixel p t) := by
  have hl := h.live
  simp only [SameLive, hp] at hl
  simp only [PhaseRanges, hp] at hR
  obtain ⟨hr, -, hi, hx, hw⟩ := hR
  have hlt := packAddr_lt hr hi hx
  have hfit := lt_of_lt_of_le hlt (hr.nbytes_le hc)
  obtain ⟨old, hold⟩ := Option.isSome_iff_exists.1 (hw _ hlt)
  have hs := (pack_ok (p := p)).2 ⟨hfit, old, hold, rfl⟩
  have ht := (pack_ok (p := p)).2 ⟨cfg_eq_of_observe h.observe ▸ hfit, old, hl.band _ hlt ▸ hold, rfl⟩
  unfold packPixel
  rw [← hl.i, ← hl.x, hs, ht]
  exact .next (advancePixel_alike h.observe (hl.write _ _) hp)

theorem fillStep_alike (h : Alike s t) (hp : s.phase = .fill) (hc : s.cfg.wf = true) (hR : PhaseRanges s) :
    OutcomesIn Alike (fillStep s) (fillStep t) := by
  have hl := h.live
  simp only [SameLive, hp] at hl
  unfold fillStep
  rw [← hl.y, ← hl.i, ← h_eq_of_registers hl.registers]
  split
  · refine srcNext_alike h fun p as => packPixel_alike p ?_ hp hc (hR.transact rfl)
    exact h.transact rfl rfl (congrArg (fun o : Observed => { o with pxAns := as, npx := o.npx + 1 }) h.observe)
  · exact packPixel_alike false h hp hc hR

theorem replStep_alike (h : Alike s t) (hp : s.phase = .repl) (hc : s.cfg.wf = true) (hR : PhaseRanges s) :
    OutcomesIn Alike (replStep s) (replStep t) := by
  have hl := h.live
  simp only [SameLive, hp] at hl
  simp only [PhaseRanges, hp] at hR
  obtain ⟨hr, -, -, hx, hw⟩ := hR
  have hn := hr.nbytes
  have hband := hr.nbytes_le hc
  have hlt : 3 * s.x < s.nbytes := by omega
  have hfit : 3 * s.x + 2 < s.cfg.bufBytes := by omega
  obtain ⟨v, hv⟩ := Option.isSome_iff_exists.1 (hw _ hlt)
  have hs := replicate_ok.2 ⟨hfit, v, hv, rfl⟩
  have ht := replicate_ok.2 ⟨cfg_eq_of_observe h.observe ▸ hfit, v, hl.band _ hlt ▸ hv, rfl⟩
  unfold replStep
  rw [← hl.x, hs, ht]
  exact .next (advanceColumn_alike h.observe ((hl.write _ v).write _ v) hp)

/-! ## Emission -/

/-- A written byte counts alike. -/
theorem Alike.count (h : Alike s t) (hk : s.k = t.k) : Alike { s with k := s.k + 1 } { t with k := t.k + 1 } := by
  have hl := h.live
  have hk' : s.k + 1 = t.k + 1 := congrArg (· + 1) hk
  refine ⟨h.observe, ?_⟩
  cases hp : s.phase with
  | idle | done | err => simp only [SameLive]
  | check =>
    simp only [SameLive, hp] at hl ⊢
    exact hl
  | setup =>
    simp only [SameLive, hp] at hl ⊢
    obtain ⟨hreg, hy, -⟩ := hl
    exact ⟨hreg, hy, hk'⟩
  | fill | repl | padout | hdr | data | trail | restore =>
    simp only [SameLive, hp] at hl ⊢
    exact ⟨hl.registers, hl.y, hl.i, hl.x, hk', hl.band⟩
  | frame =>
    simp only [SameLive, hp] at hl ⊢
    obtain ⟨hfd, -⟩ := hl
    exact ⟨hfd, hk'⟩

theorem afterByte_alike {n m : Nat} {f : State → State} (h : Alike s t) (hk : s.k = t.k) (hn : n = m)
    (hlast : Alike (f { s with k := s.k + 1 }) (f { t with k := t.k + 1 })) :
    Alike (afterByte n f s) (afterByte m f t) := by
  unfold afterByte
  rw [← hn, ← hk]
  split
  · exact hk ▸ hlast
  · exact hk ▸ h.count hk

/-- A band starts the same, whatever `BUF` held (R183, R205). -/
theorem startBand_alike (ho : s.observe = t.observe) (hreg : s.registers = t.registers) (hy : s.y = t.y)
    (hk : s.k = t.k) (hfit : s.nbytes ≤ s.cfg.bufBytes) : Alike (startBand s) (startBand t) := by
  refine ⟨congrArg (fun o : Observed => { o with phase := .fill }) ho, hreg, hy, rfl, rfl, hk, fun n hlt => ?_⟩
  have hlt' : n < min s.nbytes s.cfg.bufBytes := lt_min hlt (lt_of_lt_of_le hlt hfit)
  simp only [startBand_buf, Memory.read_clearBelow, ← nbytes_eq_of_registers hreg, ← cfg_eq_of_observe ho, if_pos hlt']

theorem advanceBand_alike (ho : s.observe = t.observe) (hs : SameConversion s t) (hfit : s.nbytes ≤ s.cfg.bufBytes) :
    Alike (advanceBand s) (advanceBand t) := by
  have hnext : s.y + s.rowh = t.y + t.rowh := by rw [hs.y, rowh_eq_of_registers hs.registers]
  have hmore : (t.y + t.rowh < t.h) = (s.y + s.rowh < s.h) := by rw [hnext, h_eq_of_registers hs.registers]
  simp only [advanceBand, hmore]
  split_ifs
  · exact startBand_alike ho hs.registers hnext hs.k hfit
  · exact enter_alike .restore ho rfl rfl ⟨hs.registers, hnext, hs.i, hs.x, rfl, hs.band⟩

theorem readRun_congr (hc : s.cfg = t.cfg) {a n : Nat} (h : ∀ j < a + n, s.buf.read j = t.buf.read j) :
    readRun s a n = readRun t a n := by
  induction n generalizing a with
  | zero => rfl
  | succ n ih =>
    have hread : memRead s a = memRead t a := by
      unfold memRead
      rw [hc, h a (by omega)]
    have htail : readRun s (a + 1) n = readRun t (a + 1) n := ih fun j hj => h j (by omega)
    simp only [readRun, hread, htail]

theorem SameConversion.bandBytes_eq (h : SameConversion s t) (hc : s.cfg = t.cfg) : bandBytes s = bandBytes t := by
  unfold bandBytes
  rw [← nbytes_eq_of_registers h.registers]
  exact readRun_congr hc fun j hj => h.band j (by omega)

/-- The two states write the same byte. -/
theorem emitted_eq (h : Alike s t) : emitted t = emitted s := by
  have hc := cfg_eq_of_observe h.observe
  have hpt := phase_eq_of_observe h.observe
  have hl := h.live
  cases hp : s.phase with
  | idle | check | fill | repl | done | err => simp only [emitted, ← hpt, hp]
  | setup =>
    simp only [SameLive, hp] at hl
    obtain ⟨hreg, -, hk⟩ := hl
    simp only [emitted, ← hpt, hp, hc, hk, pitch_eq_of_registers hreg]
  | padout =>
    simp only [SameLive, hp] at hl
    simp only [emitted, ← hpt, hp, hc, hl.k, pad_eq_of_registers hl.registers]
  | hdr =>
    simp only [SameLive, hp] at hl
    simp only [emitted, ← hpt, hp, hc, hl.k, dens_eq_of_registers hl.registers, cols_eq_of_registers hl.registers]
  | data =>
    simp only [SameLive, hp] at hl
    simp only [emitted, ← hpt, hp, hc, hl.k, hl.bandBytes_eq hc]
  | trail | restore =>
    simp only [SameLive, hp] at hl
    simp only [emitted, ← hpt, hp, hc, hl.k]
  | frame =>
    simp only [SameLive, hp] at hl
    obtain ⟨hfd, hk⟩ := hl
    simp only [emitted, ← hpt, hp, hc, hk, hfd]

theorem afterSend_alike (h : Alike s t) (hc : s.busy = true → s.cfg.wf = true) (hR : PhaseRanges s) :
    Alike (afterSend s) (afterSend t) := by
  have ho := h.observe
  have hpt := phase_eq_of_observe ho
  have hl := h.live
  cases hp : s.phase with
  | idle | check | fill | repl | done | err => simpa only [afterSend, ← hpt, hp] using h
  | setup =>
    simp only [SameLive, hp] at hl
    simp only [PhaseRanges, hp] at hR
    obtain ⟨hreg, hy, hk⟩ := hl
    have hk' : s.k + 1 = t.k + 1 := congrArg (· + 1) hk
    have hfit := hR.1.nbytes_le (hc (by simp [State.busy, hp, Phase.quiescent]))
    have hend := afterByte_alike (n := 3) (f := startBand) h hk rfl (startBand_alike ho hreg hy hk' hfit)
    simpa only [afterSend, ← hpt, hp] using hend
  | padout =>
    simp only [SameLive, hp] at hl
    simpa only [afterSend, ← hpt, hp] using h.count hl.k
  | hdr =>
    simp only [SameLive, hp] at hl
    have hend := afterByte_alike (n := 5) (f := endHeader) h hl.k rfl
      (enter_alike .data ho rfl rfl ⟨hl.registers, hl.y, hl.i, hl.x, rfl, hl.band⟩)
    simpa only [afterSend, ← hpt, hp] using hend
  | data =>
    simp only [SameLive, hp] at hl
    have hend : Alike (advanceData s) (advanceData t) :=
      afterByte_alike (f := fun u => { u with k := 0, phase := .trail }) h hl.k (nbytes_eq_of_registers hl.registers)
        (enter_alike .trail ho rfl rfl ⟨hl.registers, hl.y, hl.i, hl.x, rfl, hl.band⟩)
    simpa only [afterSend, ← hpt, hp] using hend
  | trail =>
    simp only [SameLive, hp] at hl
    simp only [PhaseRanges, hp] at hR
    have hfit := hR.1.nbytes_le (hc (by simp [State.busy, hp, Phase.quiescent]))
    have hlast : SameConversion { s with k := s.k + 1 } { t with k := t.k + 1 } :=
      ⟨hl.registers, hl.y, hl.i, hl.x, congrArg (· + 1) hl.k, hl.band⟩
    have hend := afterByte_alike (n := 2) (f := advanceBand) h hl.k rfl (advanceBand_alike ho hlast hfit)
    simpa only [afterSend, ← hpt, hp] using hend
  | restore =>
    simp only [SameLive, hp] at hl
    have hend := afterByte_alike (n := 2) (f := fun u => { u with phase := .done }) h hl.k rfl
      (enter_alike .done ho rfl rfl trivial)
    simpa only [afterSend, ← hpt, hp] using hend
  | frame =>
    simp only [SameLive, hp] at hl
    obtain ⟨hfd, hk⟩ := hl
    have hlen : (frameBytes s.cfg s.fd).length = (frameBytes t.cfg t.fd).length := by rw [cfg_eq_of_observe ho, hfd]
    have hend := afterByte_alike (f := fun u => { u with phase := .done }) h hk hlen
      (enter_alike .done ho rfl rfl trivial)
    simpa only [afterSend, ← hpt, hp] using hend

/-! ## The step -/

/-- What follows a written byte may be taken for any function that agrees on the states a `ChPut` leaves. -/
theorem chPut_congr (b : Byte) {f g : State → State}
    (h : ∀ as o c, f { s with chAns := as, out := o, ch := c } = g { s with chAns := as, out := o, ch := c }) :
    chPut b f s = chPut b g s := by
  unfold chPut
  split
  · rfl
  · rw [h]
  · rfl

/-- A phase that writes a byte does so by one `ChPut` (R205, R209, R211 to R213, R216, R232). -/
theorem step_of_emitted {b : Byte} (hr : s.rst = false) (h : emitted s = some b) : step s = chPut b afterSend s := by
  cases hp : s.phase with
  | idle | check | fill | repl | done | err => simp [emitted, hp] at h
  | setup =>
    simp only [emitted, hp] at h
    rw [step_setup hr hp, setupStep, emitByte_eq _ h]
    exact chPut_congr b fun _ _ _ => by simp only [afterSend, hp, lspBytes_length]
  | padout =>
    have hk := lt_pad_of_emitted hp h
    simp only [emitted, hp, if_pos hk, Option.some.injEq] at h
    rw [step_padout hr hp, if_pos hk, h]
    exact chPut_congr b fun _ _ _ => by simp only [afterSend, hp]
  | hdr =>
    simp only [emitted, hp] at h
    rw [step_hdr hr hp, emitByte_eq _ h]
    exact chPut_congr b fun _ _ _ => by simp only [afterSend, hp, bimgHeader_length]
  | data =>
    simp only [emitted, hp] at h
    split at h
    · next hk =>
      simp only [step_data hr hp, emitBandByte, if_pos hk, h]
      exact chPut_congr b fun _ _ _ => by simp only [afterSend, hp]
    · cases h
  | trail =>
    simp only [emitted, hp] at h
    rw [step_trail hr hp, trailStep, emitByte_eq _ h]
    exact chPut_congr b fun _ _ _ => by simp only [afterSend, hp, trailerBytes_length]
  | restore =>
    simp only [emitted, hp] at h
    rw [step_restore hr hp, restoreStep, emitByte_eq _ h]
    exact chPut_congr b fun _ _ _ => by simp only [afterSend, hp, lspdBytes_length]
  | frame =>
    simp only [emitted, hp] at h
    rw [step_frame hr hp, frameStep, emitByte_eq _ h]
    exact chPut_congr b fun _ _ _ => by simp only [afterSend, hp]

/-- A band in range is read whole. -/
theorem bandBytes_length (hc : s.cfg.wf = true) (hr : ConversionRegs s) (hw : BandWritten s) :
    (bandBytes s).length = s.nbytes := by
  have hread : ∀ j < s.nbytes, memRead s (0 + j) = .ok ((s.buf.read (0 + j)).getD 0) := by
    intro j hj
    obtain ⟨v, hv⟩ := Option.isSome_iff_exists.1 (hw j hj)
    exact memRead_ok.2 ⟨by have := hr.nbytes_le hc; omega, by simp [hv]⟩
  unfold bandBytes
  rw [readRun_eq_map s (fun a => (s.buf.read a).getD 0) 0 s.nbytes hread]
  simp

/-- A busy machine in range that writes no byte is in one of four places. -/
theorem silent_phases (hb : s.busy = true) (hc : s.cfg.wf = true) (hR : PhaseRanges s) (he : emitted s = none) :
    s.phase = .check ∨ s.phase = .fill ∨ s.phase = .repl ∨ (s.phase = .padout ∧ s.pad ≤ s.k) := by
  cases hp : s.phase with
  | idle | done | err => simp [State.busy, hp, Phase.quiescent] at hb
  | check | fill | repl => simp
  | padout =>
    refine .inr (.inr (.inr ⟨rfl, ?_⟩))
    by_contra hk
    simp [emitted, hp, hk] at he
  | setup | hdr | trail | restore | frame =>
    simp only [PhaseRanges, hp] at hR
    simp [emitted, hp] at he
    omega
  | data =>
    simp only [PhaseRanges, hp] at hR
    obtain ⟨hr, -, hk, hw⟩ := hR
    have := hr.nbytes_le hc
    have := bandBytes_length hc hr hw
    simp [emitted, hp] at he
    omega

theorem paddingDone_alike (h : Alike s t) (hr : s.rst = false) (hp : s.phase = .padout) (hk : s.pad ≤ s.k) :
    OutcomesIn Alike (step s) (step t) := by
  have hl := h.live
  simp only [SameLive, hp] at hl
  have hkt : t.pad ≤ t.k := by rwa [← hl.k, ← pad_eq_of_registers hl.registers]
  rw [step_padout hr hp, step_padout (rst_eq_of_observe h.observe ▸ hr) (phase_eq_of_observe h.observe ▸ hp),
    if_neg (Nat.not_lt.2 hk), if_neg (Nat.not_lt.2 hkt)]
  exact .next (enter_alike .hdr h.observe rfl rfl ⟨hl.registers, hl.y, hl.i, hl.x, rfl, hl.band⟩)

/-- One step of two alike states, phase by phase: reset, a request, a written byte, or one of the four silent places. -/
theorem step_alike (hc : s.busy = true → s.cfg.wf = true) (hR : PhaseRanges s) (h : Alike s t) :
    OutcomesIn Alike (step s) (step t) := by
  have hrt := rst_eq_of_observe h.observe
  have hpt := phase_eq_of_observe h.observe
  cases hr : s.rst with
  | true =>
    rw [step_reset hr, step_reset (hrt ▸ hr)]
    exact .next (applyReset_alike h.observe)
  | false =>
    rw [hr] at hrt
    cases hb : s.busy with
    | false => exact fetched_alike h.observe hr hb
    | true =>
      cases he : emitted s with
      | some b =>
        rw [step_of_emitted hr he, step_of_emitted hrt.symm ((emitted_eq h).trans he)]
        refine chPut_alike b h fun as => afterSend_alike ?_ hc (hR.transact rfl)
        exact h.transact rfl rfl
          (congrArg (fun o : Observed => { o with chAns := as, out := o.out ++ [b], ch := o.ch ++ [b] }) h.observe)
      | none =>
        obtain hp | hp | hp | ⟨hp, hk⟩ := silent_phases hb (hc hb) hR he <;> rw [hp] at hpt
        · rw [step_check hr hp, step_check hrt.symm hpt.symm]
          exact checkStep_alike h hp
        · rw [step_fill hr hp, step_fill hrt.symm hpt.symm]
          exact fillStep_alike h hp (hc hb) hR
        · rw [step_repl hr hp, step_repl hrt.symm hpt.symm]
          exact replStep_alike h hp (hc hb) hR
        · exact paddingDone_alike h hr hp hk

/-- A busy machine runs under a well-formed configuration, since no request is accepted under another (U15). -/
theorem step_keeps_busy_wf (hc : s.busy = true → s.cfg.wf = true) (h : step s = .next t) (hb : t.busy = true) :
    t.cfg.wf = true := by
  rw [(latchedRegistersAreStable s t h).1]
  have busy : ∀ {p : Phase}, s.phase = p → p.quiescent = false → s.cfg.wf = true := fun hp hq =>
    hc (by rw [State.busy, hp, hq]; rfl)
  cases step_cases h with
  | reset | headerRaises | pixelRaises | sendFails => cases hb
  | waits => exact hc hb
  | acceptEncode _ _ hwf | acceptFrame _ _ hwf => exact hwf
  | headerPasses _ hp | pixel _ hp | clearPixel _ hp | replicates _ hp | paddingDone _ hp => exact busy hp rfl
  | sent _ he =>
    refine hc (eq_true_of_ne_false fun hq => ?_)
    rcases (busy_eq_false_iff s).1 hq with hp | hp | hp <;> simp [emitted, hp] at he

/-- Two alike states in range have alike outcomes after any number of steps. -/
theorem runSteps_alike (n : Nat) (hc : s.busy = true → s.cfg.wf = true) (hR : PhaseRanges s) (h : Alike s t) :
    observeOutcome (runSteps n s) = observeOutcome (runSteps n t) := by
  induction n generalizing s t with
  | zero => exact congrArg Host.Outcome.next h.observe
  | succ n ih =>
    have hstep := step_alike hc hR h
    unfold runSteps
    generalize hs : step s = x, step t = y at hstep
    cases hstep with
    | next huv => exact ih (step_keeps_busy_wf hc hs) (step_keeps_ranges hc hR hs) huv
    | fault f => rfl
    | refused r => rfl

end

/-- Settles O56: quiescent states have nothing left to be read, so two that look alike are alike. -/
theorem staleContentsAreNeverObserved : Obligations.StaleContentsAreNeverObserved := by
  intro s t n hb h
  have hq := (busy_eq_false_iff s).1 hb
  have hR : PhaseRanges s := by rcases hq with hp | hp | hp <;> simp only [PhaseRanges, hp]
  exact runSteps_alike n (by simp [hb]) hR ⟨h, sameLive_of_quiescent hb⟩

end Sys2Proof.Machine
end

section
/-! SUPPORT. `PACK`'s address under an accepted configuration (R62), and what a step does to the delivered stream (R68,
R70). -/

namespace Sys2Proof.Machine

/-! ## The address of a pixel -/

theorem packAddr_eq_of_lt_eight {x i : Nat} (hi : i < 8) : packAddr x i = x * 3 := by
  rw [packAddr, Nat.div_eq_of_lt hi]
  rfl

/-- Settles O24: the registers a passed `CHECK` derives have the band in `BUF` and the pixel's byte in the band. -/
theorem packAddressInBand : Obligations.PackAddressInBand := by
  intro c res just w h x i hc hpass hx hi
  have hr : ConversionRegs (latchImage w h { State.reset with cfg := c, res := res, just := just }) :=
    latchImage_conversionRegs hpass
  have hband : w * 3 ≤ c.bufBytes := hr.nbytes_le hc
  have haddr : packAddr x i < w * 3 := packAddr_lt hr hi hx
  refine ⟨rfl, rfl, by omega, by omega, by omega, fun hlow => ?_⟩
  simp only [rowhOf, hlow, if_true] at hi
  exact packAddr_eq_of_lt_eight hi

/-! ## The delivered stream -/

/-- `t` has the emitted stream of `s`, and the printer has received the same. -/
def SameStream (s t : State) : Prop := t.out = s.out ∧ t.ch = s.ch

theorem afterSend_sameStream (s : State) : SameStream s (afterSend s) := by
  unfold afterSend afterByte advanceData advanceBand
  repeat' split
  all_goals exact ⟨rfl, rfl⟩

/-- Packing a pixel and advancing writes no byte (R206). -/
theorem packedPixel_sameStream {s u : State} {x i : Nat} {p : Bool} (hu : pack x i p s = .ok u) :
    SameStream s (advancePixel u) := by
  obtain ⟨-, -, -, rfl⟩ := pack_ok.1 hu
  unfold advancePixel endFill
  split_ifs <;> exact ⟨rfl, rfl⟩

/-- Replicating a column and advancing writes no byte (R210). -/
theorem replicatedColumn_sameStream {s u : State} {x : Nat} (hu : replicate x s = .ok u) :
    SameStream s (advanceColumn u) := by
  obtain ⟨-, -, -, rfl⟩ := replicate_ok.1 hu
  unfold advanceColumn
  split <;> exact ⟨rfl, rfl⟩

theorem busy_of_phase {s : State} {p : Phase} (hp : s.phase = p) (hq : p.quiescent = false) : s.busy = true := by
  rw [State.busy, hp, hq]
  rfl

/-- Only a running operation writes bytes. -/
theorem busy_of_emitted {s : State} {b : Byte} (hb : emitted s = some b) : s.busy = true := by
  refine eq_true_of_ne_false fun hq => ?_
  rcases (busy_eq_false_iff s).1 hq with hp | hp | hp <;> simp [emitted, hp] at hb

/-- The kinds of step by what they do to the emitted stream and to what the printer has received: a reset or an acceptance
empties the first, the running operation sends one byte to both, every other step keeps both and starts nothing. -/
inductive StreamEffect (s t : State) : Prop where
  | emptied (ho : t.out = []) (hc : t.ch = s.ch)
  | kept (hb : t.busy = true → s.busy = true) (hs : SameStream s t)
  | sent (b : Byte) (hb : s.busy = true) (ho : t.out = s.out ++ [b]) (hc : t.ch = s.ch ++ [b])

/-- What every step does to the stream. -/
theorem StepCase.streamEffect {s t : State} (h : StepCase s t) : StreamEffect s t := by
  cases h with
  | reset | acceptEncode | acceptFrame => exact .emptied rfl rfl
  | waits => exact .kept id ⟨rfl, rfl⟩
  | headerRaises | pixelRaises | sendFails => exact .kept nofun ⟨rfl, rfl⟩
  | headerPasses _ hp | paddingDone _ hp => exact .kept (fun _ => busy_of_phase hp rfl) ⟨rfl, rfl⟩
  | pixel _ hp _ _ hu =>
    have hs := packedPixel_sameStream hu
    exact .kept (fun _ => busy_of_phase hp rfl) hs
  | clearPixel _ hp _ hu => exact .kept (fun _ => busy_of_phase hp rfl) (packedPixel_sameStream hu)
  | replicates _ hp hu => exact .kept (fun _ => busy_of_phase hp rfl) (replicatedColumn_sameStream hu)
  | @sent b as _ hb _ =>
    obtain ⟨ho, hc⟩ := afterSend_sameStream { s with chAns := as, out := s.out ++ [b], ch := s.ch ++ [b] }
    exact .sent b (busy_of_emitted hb) ho hc

/-- Settles O55: an operation begins with nothing emitted, and a byte it sends ends both streams. -/
theorem stepKeepsTheDeliveredStream : Obligations.StepKeepsTheDeliveredStream := by
  intro s t hs h ht
  cases (step_cases h).streamEffect with
  | emptied ho =>
    rw [ho]
    exact List.nil_suffix
  | kept hb hst =>
    obtain ⟨ho, hc⟩ := hst
    rw [ho, hc]
    exact hs (hb ht)
  | sent b hb ho hc =>
    rw [ho, hc]
    exact List.suffix_append_self_iff.2 (hs hb)

end Sys2Proof.Machine
end

section
/-! SUPPORT. The parts R106 reads a frame by: the fields of R94 and R102, the payload up to its terminator, the band data,
the padding. Each reader is said once, on what the encoder writes and on what it has read. -/

namespace Sys2Proof

/-! ## Fields -/

theorem magDomain_iff (n : Nat) : magDomain n = true ↔ 1 ≤ n ∧ n ≤ 16 := by simp [magDomain]

/-- Two nibbles do not overlap, so their `or` is a sum. -/
theorem shiftLeft_four_or (a : Nat) {b : Nat} (hb : b < 16) : a <<< 4 ||| b = a * 16 + b := by
  rw [← Nat.shiftLeft_add_eq_or_of_lt (i := 4) hb, Nat.shiftLeft_eq]

theorem chszParam_toNat {hmag vmag : Nat} (hh : hmag ≤ 16) (hv : vmag ≤ 16) :
    (chszParam hmag vmag).toNat = (hmag - 1) * 16 + (vmag - 1) := by
  have hfits : (hmag - 1) <<< 4 % 2 ^ 8 = (hmag - 1) <<< 4 := by rw [Nat.shiftLeft_eq]; omega
  rw [chszParam, BitVec.toNat_or, BitVec.toNat_shiftLeft, BitVec.toNat_ofNat, BitVec.toNat_ofNat,
    Nat.mod_eq_of_lt (by omega : hmag - 1 < 2 ^ 8), Nat.mod_eq_of_lt (by omega : vmag - 1 < 2 ^ 8), hfits,
    shiftLeft_four_or _ (by omega)]

/-- Settles O5: both sides are the sum of the two nibbles. -/
theorem sizeParameterFields : Obligations.SizeParameterFields := by
  intro hmag vmag _ hh _ hv
  rw [chszParam_toNat hh hv, shiftLeft_four_or _ (by omega)]
  omega

theorem decodeChsz_eq (p : Byte) : decodeChsz p = .chsz (p.toNat / 16 + 1) (p.toNat % 16 + 1) := by
  have hand : p.toNat &&& 15 = p.toNat % 16 := Nat.and_two_pow_sub_one_eq_mod p.toNat 4
  simp [decodeChsz, Nat.shiftRight_eq_div_pow, hand]

/-- The operands of `CHSZ` are read back from their parameter byte. -/
theorem decodeChsz_chszParam {hmag vmag : Nat} (hh : magDomain hmag = true) (hv : magDomain vmag = true) :
    decodeChsz (chszParam hmag vmag) = .chsz hmag vmag := by
  rw [magDomain_iff] at hh hv
  rw [decodeChsz_eq, chszParam_toNat hh.2 hv.2]
  congr 1 <;> omega

/-- Every byte is the parameter of the operands read from it. -/
theorem chszParam_fields (p : Byte) : chszParam (p.toNat / 16 + 1) (p.toNat % 16 + 1) = p := by
  have hp := p.isLt
  refine BitVec.eq_of_toNat_eq ?_
  rw [chszParam_toNat (by omega) (by omega)]
  omega

@[simp] theorem lowByte_append (nH nL : Byte) : lowByte (nH ++ nL) = nL := BitVec.extractLsb'_append_eq_right

@[simp] theorem highByte_append (nH nL : Byte) : highByte (nH ++ nL) = nH := BitVec.extractLsb'_append_eq_left

@[simp] theorem highByte_append_lowByte (cols : BitVec 16) : highByte cols ++ lowByte cols = cols := by
  rw [highByte, lowByte, BitVec.extractLsb'_append_extractLsb'_eq_extractLsb' (by rfl)]
  exact BitVec.extractLsb'_eq_self

/-! ## The payload and its terminator (R98) -/

theorem splitAtNul_append {nul : Byte} {s : List Byte} (h : nul ∉ s) (rest : List Byte) :
    splitAtNul nul (s ++ nul :: rest) = some (s, rest) := by
  induction s with
  | nil => simp [splitAtNul]
  | cons b s ih =>
    have hb : b ≠ nul := (List.ne_of_not_mem_cons h).symm
    simp [splitAtNul, hb, ih (List.not_mem_of_not_mem_cons h)]

theorem splitAtNul_eq_none {nul : Byte} {l : List Byte} (h : nul ∉ l) : splitAtNul nul l = none := by
  induction l with
  | nil => rfl
  | cons b l ih =>
    have hb : b ≠ nul := (List.ne_of_not_mem_cons h).symm
    simp [splitAtNul, hb, ih (List.not_mem_of_not_mem_cons h)]

theorem append_of_splitAtNul {nul : Byte} {l s rest : List Byte} (h : splitAtNul nul l = some (s, rest)) :
    l = s ++ nul :: rest := by
  induction l generalizing s with
  | nil => cases h
  | cons b l ih =>
    unfold splitAtNul at h
    split at h
    · next hb => cases h; rw [hb]; rfl
    · obtain ⟨⟨s', rest'⟩, h', heq⟩ := Option.map_eq_some_iff.1 h
      cases heq
      rw [ih h']
      rfl

/-! ## The band data (R99) -/

theorem splitAtExactly_append (d rest : List Byte) : splitAtExactly d.length (d ++ rest) = some (d, rest) := by
  induction d with
  | nil => rfl
  | cons b d ih => simp [splitAtExactly, ih]

theorem splitAtExactly_eq_none {n : Nat} {l : List Byte} (h : l.length < n) : splitAtExactly n l = none := by
  induction l generalizing n with
  | nil =>
    cases n with
    | zero => cases h
    | succ n => rfl
  | cons b l ih =>
    cases n with
    | zero => cases h
    | succ n => simp [splitAtExactly, ih (Nat.lt_of_succ_lt_succ h)]

theorem append_of_splitAtExactly {n : Nat} {l d rest : List Byte} (h : splitAtExactly n l = some (d, rest)) :
    l = d ++ rest := by
  induction n generalizing l d with
  | zero => cases h; rfl
  | succ n ih =>
    cases l with
    | nil => cases h
    | cons b l =>
      obtain ⟨⟨d', rest'⟩, h', heq⟩ := Option.map_eq_some_iff.1 h
      cases heq
      rw [ih h']
      rfl

/-! ## The padding (R101) -/

theorem takePadding_of_head_ne {sp : Byte} {l : List Byte} (h : l.head? ≠ some sp) : takePadding sp l = (0, l) := by
  cases l with
  | nil => rfl
  | cons b l =>
    have hb : b ≠ sp := by simpa using h
    simp [takePadding, hb]

theorem takePadding_replicate_append {sp : Byte} {rest : List Byte} (h : rest.head? ≠ some sp) (n : Nat) :
    takePadding sp (List.replicate n sp ++ rest) = (n, rest) := by
  induction n with
  | zero => exact takePadding_of_head_ne h
  | succ n ih => simp [takePadding, List.replicate_succ, ih]

theorem replicate_takePadding (sp : Byte) (l : List Byte) :
    List.replicate (takePadding sp l).1 sp ++ (takePadding sp l).2 = l := by
  induction l with
  | nil => rfl
  | cons b l ih =>
    unfold takePadding
    split
    · next hb => simpa [List.replicate_succ, hb] using ih
    · rfl

end Sys2Proof
end

section
/-! SUPPORT. Under R106's condition each row of R104 reads back as itself, whatever bytes follow it. -/

namespace Sys2Proof

/-! ## Selecting the row -/

/-- What R106's condition says of a configuration. -/
theorem parseable_iff (c : Config) :
    c.parseable = true ↔ c.escCodes.Nodup ∧ c.gsCodes.Nodup ∧ c.densityLow ≠ c.densityHigh ∧
      [c.esc, c.gs, c.sp, c.cr].Nodup ∧ c.nul = 0 := by
  simp [Config.parseable, and_assoc]

theorem parseable_densities {c : Config} (hc : c.parseable = true) : c.densityLow ≠ c.densityHigh := by
  obtain ⟨-, -, h, -⟩ := (parseable_iff c).1 hc
  exact h

theorem parseable_nul {c : Config} (hc : c.parseable = true) : c.nul = 0 := by
  obtain ⟨-, -, -, -, h⟩ := (parseable_iff c).1 hc
  exact h

/-- The control characters are told apart. -/
theorem parseable_controls {c : Config} (hc : c.parseable = true) :
    c.esc ≠ c.sp ∧ c.gs ≠ c.sp ∧ c.gs ≠ c.esc ∧ c.esc ≠ c.cr ∧ c.gs ≠ c.cr ∧ c.sp ≠ c.cr := by
  obtain ⟨-, -, -, h, -⟩ := (parseable_iff c).1 hc
  simp only [List.nodup_cons, List.mem_cons, not_or] at h
  obtain ⟨⟨hgs, hsp, hcr, -⟩, ⟨hgsp, hgcr, -⟩, ⟨hspcr, -⟩, -⟩ := h
  exact ⟨hsp, hgsp, Ne.symm hgs, hcr, hgcr, hspcr⟩

theorem decodeWire_noPrefix {c : Config} {b : Byte} (hsp : b ≠ c.sp) (hesc : b ≠ c.esc) (hgs : b ≠ c.gs) (t : List Byte) :
    decodeWire c (b :: t) = .error .noPrefixByte := by
  simp [decodeWire, hsp, hesc, hgs]

theorem decodeWire_esc {c : Config} (hc : c.parseable = true) (code : Byte) (t : List Byte) :
    decodeWire c (c.esc :: code :: t) = decodeEsc c code t := by
  obtain ⟨hsp, -⟩ := parseable_controls hc
  simp [decodeWire, hsp]

theorem decodeWire_gs {c : Config} (hc : c.parseable = true) (code : Byte) (t : List Byte) :
    decodeWire c (c.gs :: code :: t) = decodeGs c code t := by
  obtain ⟨-, hsp, hesc, -⟩ := parseable_controls hc
  simp [decodeWire, hsp, hesc]

/-- `ESC` or `GS` alone is a frame cut short. -/
theorem decodeWire_first_byte_alone {c : Config} (hc : c.parseable = true) :
    decodeWire c [c.esc] = .error .truncated ∧ decodeWire c [c.gs] = .error .truncated := by
  obtain ⟨hsp, hgsp, hesc, -⟩ := parseable_controls hc
  simp [decodeWire, hsp, hgsp, hesc]

/-- The rows behind `ESC`, each selected by its code byte. -/
theorem decodeEsc_rows {c : Config} (hc : c.parseable = true) (t : List Byte) :
    decodeEsc c Config.ch3 t = decodeF3 .lsp t ∧ decodeEsc c Config.ch2 t = .ok (.lspd, t) ∧
    decodeEsc c Config.chStar t = decodeBimg c t ∧ decodeEsc c Config.chMinus t = decodeF3 .ul t ∧
    decodeEsc c c.buzzerCode t = .ok (.buzz, t) ∧ decodeEsc c c.fontCode t = decodeF3 .font t ∧
    decodeEsc c c.dblprintCode t = decodeF3 .dblp t ∧ decodeEsc c c.emphCode t = decodeF3 .emph t ∧
    decodeEsc c c.mirrorCode t = decodeF3 .mirr t ∧ decodeEsc c c.rotateCode t = decodeF3 .rot t := by
  -- reversed, the list's inequalities stand as the tests do: a later code against an earlier one
  obtain ⟨hcodes, -⟩ := (parseable_iff c).1 hc
  have hne := List.nodup_reverse.2 hcodes
  simp only [Config.escCodes, List.reverse_cons, List.reverse_nil, List.nil_append, List.cons_append, List.nodup_cons,
    List.mem_cons, not_or] at hne
  simp [decodeEsc, hne]

/-- The rows behind `GS`, each selected by its code byte. -/
theorem decodeGs_rows {c : Config} (hc : c.parseable = true) (t : List Byte) :
    decodeGs c Config.chUpperV t = decodeCut t ∧ decodeGs c Config.chLowerW t = decodeF3 .bcw t ∧
    decodeGs c Config.chLowerH t = decodeF3 .bch t ∧ decodeGs c Config.chUpperH t = decodeF3 .bctp t ∧
    decodeGs c Config.chLowerK t = decodeBcode c t ∧ decodeGs c c.chsizeCode t = decodeF3 decodeChsz t ∧
    decodeGs c c.inverseCode t = decodeF3 .inv t := by
  obtain ⟨-, hcodes, -⟩ := (parseable_iff c).1 hc
  have hne := List.nodup_reverse.2 hcodes
  simp only [Config.gsCodes, List.reverse_cons, List.reverse_nil, List.nil_append, List.cons_append, List.nodup_cons,
    List.mem_cons, not_or] at hne
  simp [decodeGs, hne]

/-! ## What the encoder writes is read -/

/-- What reading an instruction back from its wire bytes takes of its operands: the row has wire bytes of its own (R104), a
bit image has the data its density and count announce (R99), the operands of `CHSZ` fit their byte (R102), a payload does
not hold its terminator (R98), and a padding run is not empty. -/
def Instr.Readable (c : Config) : Instr → Prop
  | .encode _ _ | .frame _ _ _ _ => False
  | .bimg m cols d => (bytesPerColumn c m).map (cols.toNat * ·) = some d.length
  | .chsz hmag vmag => magDomain hmag = true ∧ magDomain vmag = true
  | .bcode _ s => c.nul ∉ s
  | .padrun pad => pad ≠ 0
  | .lsp _ | .lspd | .buzz | .pcut | .ul _ | .font _ | .dblp _ | .emph _ | .inv _ | .mirr _ | .rot _ | .bcw _ | .bch _
  | .bctp _ => True

/-- A well-formed instruction that is asked for by wire bytes is readable, but for the empty padding run. -/
theorem readable_of_wellFormed {c : Config} {i : Instr} (hc : c.parseable = true) (hw : i.wellFormed c = true)
    (hi : i ≠ .padrun 0) (he : encode c i = .wire (wireBytes c i)) : i.Readable c := by
  cases i with
  | encode | frame => cases he
  | bimg m cols d =>
    simp only [Instr.wellFormed, Bool.and_eq_true, decide_eq_true_eq] at hw
    exact hw.2
  | chsz hmag vmag => exact (Bool.and_eq_true _ _).mp hw
  | bcode m s =>
    intro hmem
    simp only [Instr.wellFormed, Bool.and_eq_true, List.all_eq_true] at hw
    have hbyte := hw.1 _ hmem
    simp [parseable_nul hc, payloadByte] at hbyte
  | padrun pad => exact fun h => hi (h ▸ rfl)
  | lsp | lspd | buzz | pcut | ul | font | dblp | emph | inv | mirr | rot | bcw | bch | bctp => trivial

/-- A bit image whose data are as long as its density and count announce is read whole (R106). -/
theorem decodeBimg_append {c : Config} {m : Byte} {cols : BitVec 16} {d : List Byte}
    (h : (bytesPerColumn c m).map (cols.toNat * ·) = some d.length) (rest : List Byte) :
    decodeBimg c (m :: lowByte cols :: highByte cols :: (d ++ rest)) = .ok (.bimg m cols d, rest) := by
  obtain ⟨n, hn, hlen⟩ := Option.map_eq_some_iff.1 h
  simp [decodeBimg, hn, hlen, splitAtExactly_append]

/-- A readable instruction is read from its bytes, and what follows them is left; a padding run takes every space. -/
theorem decodeWire_wireBytes_append {c : Config} {i : Instr} {rest : List Byte} (hc : c.parseable = true)
    (hi : i.Readable c) (hrest : ∀ pad, i = .padrun pad → rest.head? ≠ some c.sp) :
    decodeWire c (wireBytes c i ++ rest) = .ok (i, rest) := by
  cases i with
  | encode | frame => exact hi.elim
  | bimg m cols d => simpa [wireBytes, decodeWire_esc hc, decodeEsc_rows hc] using decodeBimg_append hi rest
  | chsz hmag vmag =>
    simp [wireBytes, decodeWire_gs hc, decodeGs_rows hc, decodeF3, decodeChsz_chszParam hi.1 hi.2]
  | bcode m s => simp [wireBytes, decodeWire_gs hc, decodeGs_rows hc, decodeBcode, splitAtNul_append hi]
  | padrun pad =>
    obtain ⟨n, rfl⟩ := Nat.exists_eq_succ_of_ne_zero hi
    simp [wireBytes, List.replicate_succ, decodeWire, takePadding_replicate_append (hrest _ rfl)]
  | lspd | buzz => simp [wireBytes, decodeWire_esc hc, decodeEsc_rows hc]
  | pcut => simp [wireBytes, decodeWire_gs hc, decodeGs_rows hc, decodeCut]
  | lsp | ul | font | dblp | emph | mirr | rot => simp [wireBytes, decodeWire_esc hc, decodeEsc_rows hc, decodeF3]
  | inv | bcw | bch | bctp => simp [wireBytes, decodeWire_gs hc, decodeGs_rows hc, decodeF3]

/-! ## Bytes on the request lines -/

theorem decode_wire_ok {c : Config} {bs : List Byte} {i : Instr} (h : decodeWire c bs = .ok (i, [])) :
    decode c (.wire bs) = .ok i := by simp [decode, h]

theorem decode_wire_trailing {c : Config} {bs : List Byte} {i : Instr} {b : Byte} {t : List Byte}
    (h : decodeWire c bs = .ok (i, b :: t)) : decode c (.wire bs) = .error .trailingBytes := by simp [decode, h]

theorem decode_wire_error {c : Config} {bs : List Byte} {e : DecodeError} (h : decodeWire c bs = .error e) :
    decode c (.wire bs) = .error e := by simp [decode, h]

/-- A request by wire bytes that decodes is one instruction whole. -/
theorem decodeWire_of_decode_wire {c : Config} {bs : List Byte} {i : Instr} (h : decode c (.wire bs) = .ok i) :
    decodeWire c bs = .ok (i, []) := by
  unfold decode at h
  dsimp only at h
  split at h
  · cases h
  · next j hj => cases h; exact hj
  · cases h

theorem decode_wireBytes {c : Config} {i : Instr} (hc : c.parseable = true) (hi : i.Readable c) :
    decode c (.wire (wireBytes c i)) = .ok i := by
  have h := decodeWire_wireBytes_append (rest := []) hc hi nofun
  rw [List.append_nil] at h
  exact decode_wire_ok h

/-- A request is a record, which is read as it stands, or the wire bytes of its instruction. -/
theorem encode_record_or_wire (c : Config) (i : Instr) :
    decode c (encode c i) = .ok i ∨ encode c i = .wire (wireBytes c i) := by
  cases i with
  | encode | frame => exact .inl rfl
  | lsp | lspd | bimg | buzz | pcut | ul | chsz | font | dblp | emph | inv | mirr | rot | bcw | bch | bctp | bcode
  | padrun => exact .inr rfl

/-- Settles O2: a record is read as it stands, wire bytes row by row. -/
theorem decodeInvertsEncode : Obligations.DecodeInvertsEncode := by
  intro c i hc hw hi
  rcases encode_record_or_wire c i with h | h
  · exact h
  · rw [h]
    exact decode_wireBytes hc (readable_of_wellFormed hc hw hi h)

/-- Settles O1: each word is the wire bytes of its row. -/
theorem wordsOfTheTableDecode : Obligations.WordsOfTheTableDecode := by
  intro c hc hesc hgs hsp hhigh
  have hlow : c.densityLow ≠ 0x21 := hhigh ▸ parseable_densities hc
  have hnul := parseable_nul hc
  have reads (i : Instr) {bs : List Byte} (hi : i.Readable c) (hbs : wireBytes c i = bs) : decode c (.wire bs) = .ok i :=
    hbs ▸ decode_wireBytes hc hi
  have hcolumn : bytesPerColumn c 0x21 = some 3 := by rw [bytesPerColumn, if_neg hlow.symm, if_pos hhigh.symm]
  have himage : Instr.Readable c (.bimg 0x21 2 [0x80, 0x00, 0x00, 0x40, 0x00, 0x00]) := by
    rw [Instr.Readable, hcolumn]
    rfl
  have hpayload : Instr.Readable c (.bcode 4 [0x41, 0x42]) := by simp [Instr.Readable, hnul]
  refine ⟨reads _ trivial ?_, reads _ trivial ?_, reads _ himage ?_, reads _ trivial ?_, reads _ trivial ?_,
    reads _ trivial ?_, reads _ ⟨rfl, rfl⟩ ?_, reads _ trivial ?_, reads _ trivial ?_, reads _ trivial ?_,
    reads _ trivial ?_, reads _ trivial ?_, reads _ trivial ?_, reads _ trivial ?_, reads _ trivial ?_,
    reads _ trivial ?_, reads _ hpayload ?_, reads _ (Nat.succ_ne_zero 2) ?_⟩ <;>
    simp only [wireBytes, hesc, hgs, hsp, hnul] <;> rfl
end Sys2Proof
end

section
/-! SUPPORT. Whatever is read was written by the row it is read as (R104), under every configuration. -/

namespace Sys2Proof

/-- The bytes `bs` are those of the instruction `i`, which is asked for by its bytes, and then `rest`. -/
def Written (c : Config) (bs : List Byte) (i : Instr) (rest : List Byte) : Prop :=
  bs = wireBytes c i ++ rest ∧ encode c i = .wire (wireBytes c i)

theorem decodeF3_ok {mk : Byte → Instr} {l rest : List Byte} {i : Instr} (h : decodeF3 mk l = .ok (i, rest)) :
    ∃ p, i = mk p ∧ l = p :: rest := by
  cases l with
  | nil => cases h
  | cons p l => cases h; exact ⟨p, rfl, rfl⟩

/-- A row of format `F3` (R97): two bytes and the parameter. -/
theorem written_of_decodeF3 {c : Config} {mk : Byte → Instr} {l rest : List Byte} {i : Instr} {b code : Byte}
    (h : decodeF3 mk l = .ok (i, rest)) (hmk : ∀ p, Written c [b, code, p] (mk p) []) :
    Written c (b :: code :: l) i rest := by
  obtain ⟨p, rfl, rfl⟩ := decodeF3_ok h
  obtain ⟨hbytes, henc⟩ := hmk p
  rw [List.append_nil] at hbytes
  exact ⟨by rw [← hbytes]; rfl, henc⟩

theorem written_of_decodeCut {c : Config} {l rest : List Byte} {i : Instr} (h : decodeCut l = .ok (i, rest)) :
    Written c (c.gs :: Config.chUpperV :: l) i rest := by
  cases l with
  | nil => cases h
  | cons p l =>
    unfold decodeCut at h
    dsimp only at h
    split at h
    · next hp => cases h; exact ⟨by rw [hp]; rfl, rfl⟩
    · cases h

theorem written_of_decodeBcode {c : Config} {l rest : List Byte} {i : Instr} (h : decodeBcode c l = .ok (i, rest)) :
    Written c (c.gs :: Config.chLowerK :: l) i rest := by
  cases l with
  | nil => cases h
  | cons m l =>
    unfold decodeBcode at h
    dsimp only at h
    split at h
    · cases h
    · next s _ hs => cases h; exact ⟨by simp [wireBytes, append_of_splitAtNul hs], rfl⟩

theorem written_of_decodeBimg {c : Config} {l rest : List Byte} {i : Instr} (h : decodeBimg c l = .ok (i, rest)) :
    Written c (c.esc :: Config.chStar :: l) i rest := by
  unfold decodeBimg at h
  split at h
  · split at h
    · cases h
    · dsimp only at h
      split at h
      · cases h
      · next hd => cases h; exact ⟨by simp [wireBytes, append_of_splitAtExactly hd], rfl⟩
  · cases h

/-- One test of a code byte: the selected row, or the tests that follow. -/
theorem written_of_row {c : Config} {pfx code k : Byte} {l rest : List Byte} {i : Instr}
    {row others : Except DecodeError (Instr × List Byte)} (h : (if code = k then row else others) = .ok (i, rest))
    (hrow : row = .ok (i, rest) → Written c (pfx :: k :: l) i rest)
    (hothers : others = .ok (i, rest) → Written c (pfx :: code :: l) i rest) : Written c (pfx :: code :: l) i rest := by
  rcases ite_eq_iff.1 h with ⟨rfl, hr⟩ | ⟨-, ho⟩
  · exact hrow hr
  · exact hothers ho

theorem written_of_decodeEsc {c : Config} {code : Byte} {l rest : List Byte} {i : Instr}
    (h : decodeEsc c code l = .ok (i, rest)) : Written c (c.esc :: code :: l) i rest := by
  refine written_of_row h (written_of_decodeF3 · fun _ => ⟨rfl, rfl⟩) fun h => ?_
  refine written_of_row h (fun h => by cases h; exact ⟨rfl, rfl⟩) fun h => ?_
  refine written_of_row h written_of_decodeBimg fun h => ?_
  refine written_of_row h (written_of_decodeF3 · fun _ => ⟨rfl, rfl⟩) fun h => ?_
  refine written_of_row h (fun h => by cases h; exact ⟨rfl, rfl⟩) fun h => ?_
  iterate 5 refine written_of_row h (written_of_decodeF3 · fun _ => ⟨rfl, rfl⟩) fun h => ?_
  cases h

theorem written_of_decodeGs {c : Config} {code : Byte} {l rest : List Byte} {i : Instr}
    (h : decodeGs c code l = .ok (i, rest)) : Written c (c.gs :: code :: l) i rest := by
  have hsize (p : Byte) : Written c [c.gs, c.chsizeCode, p] (decodeChsz p) [] := by
    rw [decodeChsz_eq]
    exact ⟨by rw [wireBytes, chszParam_fields]; rfl, rfl⟩
  refine written_of_row h written_of_decodeCut fun h => ?_
  iterate 3 refine written_of_row h (written_of_decodeF3 · fun _ => ⟨rfl, rfl⟩) fun h => ?_
  refine written_of_row h written_of_decodeBcode fun h => ?_
  refine written_of_row h (written_of_decodeF3 · hsize) fun h => ?_
  refine written_of_row h (written_of_decodeF3 · fun _ => ⟨rfl, rfl⟩) fun h => ?_
  cases h

theorem written_of_decodeWire {c : Config} {bs rest : List Byte} {i : Instr} (h : decodeWire c bs = .ok (i, rest)) :
    Written c bs i rest := by
  cases bs with
  | nil => cases h
  | cons b t =>
    unfold decodeWire at h
    dsimp only at h
    split_ifs at h with hsp hesc hgs
    · subst b
      cases h
      exact ⟨by simp [wireBytes, List.replicate_succ, replicate_takePadding], rfl⟩
    · subst b
      cases t with
      | nil => cases h
      | cons code t => exact written_of_decodeEsc h
    · subst b
      cases t with
      | nil => cases h
      | cons code t => exact written_of_decodeGs h

/-- Settles O3: a record is encoded as itself, bytes are what their row writes. -/
theorem encodeInvertsDecode : Obligations.EncodeInvertsDecode := by
  intro c r i h
  cases r with
  | encodeRec | frameRec => cases h; exact .inl rfl
  | named j => cases h; exact .inr rfl
  | wire bs =>
    obtain ⟨hbytes, henc⟩ := written_of_decodeWire (decodeWire_of_decode_wire h)
    rw [List.append_nil] at hbytes
    exact .inl (by rw [henc, hbytes])

end Sys2Proof
end

section
/-! SUPPORT. What is no instruction whole is rejected by name (R106). -/

namespace Sys2Proof

theorem decodeEsc_unknown {c : Config} {code : Byte} (h : code ∉ c.escCodes) (t : List Byte) :
    decodeEsc c code t = .error .unknownCode := by
  simp only [Config.escCodes, List.mem_cons, not_or] at h
  simp [decodeEsc, h]

theorem decodeGs_unknown {c : Config} {code : Byte} (h : code ∉ c.gsCodes) (t : List Byte) :
    decodeGs c code t = .error .unknownCode := by
  simp only [Config.gsCodes, List.mem_cons, not_or] at h
  simp [decodeGs, h]

theorem decodeCut_parameter {p : Byte} (h : p ≠ 1) (t : List Byte) : decodeCut (p :: t) = .error .cutParameter := by
  simpa [decodeCut] using h

theorem decodeBimg_density {c : Config} {m : Byte} (hl : m ≠ c.densityLow) (hh : m ≠ c.densityHigh) (nL nH : Byte)
    (t : List Byte) : decodeBimg c (m :: nL :: nH :: t) = .error .unknownDensity := by
  simp [decodeBimg, bytesPerColumn, hl, hh]

theorem decodeBcode_noTerminator {c : Config} {t : List Byte} (h : c.nul ∉ t) (m : Byte) :
    decodeBcode c (m :: t) = .error .noTerminator := by
  simp [decodeBcode, splitAtNul_eq_none h]

theorem decodeWire_barcode_noTerminator {c : Config} {t : List Byte} (hc : c.parseable = true) (h : c.nul ∉ t) (m : Byte) :
    decodeWire c (c.gs :: Config.chLowerK :: m :: t) = .error .noTerminator := by
  simp [decodeWire_gs hc, decodeGs_rows hc, decodeBcode_noTerminator h]

/-- A bit image with fewer data bytes than it announces is truncated. -/
theorem decodeBimg_short {c : Config} {m : Byte} {cols : BitVec 16} {d t : List Byte}
    (h : (bytesPerColumn c m).map (cols.toNat * ·) = some d.length) (ht : t.length < d.length) :
    decodeBimg c (m :: lowByte cols :: highByte cols :: t) = .error .truncated := by
  obtain ⟨n, hn, hlen⟩ := Option.map_eq_some_iff.1 h
  simp [decodeBimg, hn, hlen, splitAtExactly_eq_none ht]

/-- A frame that ends with its first byte, its code or before its parameter is truncated. -/
theorem decodeWire_take_head {c : Config} {i : Instr} {n : Nat} (hc : c.parseable = true) (hi : i.Readable c)
    (hpad : ∀ pad, i ≠ .padrun pad) (h0 : 0 < n) (h3 : n < 3) (hn : n < (wireBytes c i).length) :
    decodeWire c ((wireBytes c i).take n) = .error .truncated := by
  cases i with
  | encode | frame => exact hi.elim
  | padrun pad => exact absurd rfl (hpad pad)
  | lspd | buzz =>
    obtain rfl : n = 1 := by simp only [wireBytes, List.length_cons, List.length_nil] at hn; omega
    simp [wireBytes, decodeWire_first_byte_alone hc]
  | lsp | ul | font | dblp | emph | mirr | rot | bimg =>
    interval_cases n <;>
      simp [wireBytes, decodeWire_first_byte_alone hc, decodeWire_esc hc, decodeEsc_rows hc, decodeF3, decodeBimg]
  | pcut | chsz | inv | bcw | bch | bctp | bcode =>
    interval_cases n <;>
      simp [wireBytes, decodeWire_first_byte_alone hc, decodeWire_gs hc, decodeGs_rows hc, decodeF3, decodeCut, decodeBcode]

/-- A barcode cut behind its mode lacks its terminator. -/
theorem decodeWire_take_bcode {c : Config} {m : Byte} {s : List Byte} {n : Nat} (hc : c.parseable = true)
    (hi : c.nul ∉ s) (h3 : 3 ≤ n) (hn : n < (wireBytes c (.bcode m s)).length) :
    decodeWire c ((wireBytes c (.bcode m s)).take n) = .error .noTerminator := by
  obtain ⟨k, rfl⟩ := Nat.exists_eq_add_of_le' h3
  have hk : k ≤ s.length := by simp [wireBytes] at hn; omega
  simpa [wireBytes, List.take_append_of_le_length hk] using
    decodeWire_barcode_noTerminator hc (fun h => hi (List.mem_of_mem_take h)) m

/-- A bit image cut within its header or its data is truncated. -/
theorem decodeWire_take_bimg {c : Config} {m : Byte} {cols : BitVec 16} {d : List Byte} {n : Nat}
    (hc : c.parseable = true) (hi : Instr.Readable c (.bimg m cols d)) (h3 : 3 ≤ n)
    (hn : n < (wireBytes c (.bimg m cols d)).length) :
    decodeWire c ((wireBytes c (.bimg m cols d)).take n) = .error .truncated := by
  rcases Nat.lt_or_ge n 5 with h5 | h5
  · interval_cases n <;> simp [wireBytes, decodeWire_esc hc, decodeEsc_rows hc, decodeBimg]
  · obtain ⟨k, rfl⟩ := Nat.exists_eq_add_of_le' h5
    have hk : (d.take k).length < d.length := by simp [wireBytes] at hn ⊢; omega
    simpa [wireBytes, decodeWire_esc hc, decodeEsc_rows hc] using decodeBimg_short hi hk

/-- A readable instruction other than padding, cut short, is truncated, or a barcode without its terminator. -/
theorem decodeWire_take {c : Config} {i : Instr} {n : Nat} (hc : c.parseable = true) (hi : i.Readable c)
    (hpad : ∀ pad, i ≠ .padrun pad) (h0 : 0 < n) (hn : n < (wireBytes c i).length) :
    decodeWire c ((wireBytes c i).take n) = .error .truncated ∨
      (∃ m s, i = .bcode m s) ∧ 3 ≤ n ∧ decodeWire c ((wireBytes c i).take n) = .error .noTerminator := by
  rcases Nat.lt_or_ge n 3 with h3 | h3
  · exact .inl (decodeWire_take_head hc hi hpad h0 h3 hn)
  · cases i with
    | bcode m s => exact .inr ⟨⟨m, s, rfl⟩, h3, decodeWire_take_bcode hc hi h3 hn⟩
    | bimg m cols d => exact .inl (decodeWire_take_bimg hc hi h3 hn)
    | encode | frame => exact hi.elim
    | padrun pad => exact absurd rfl (hpad pad)
    | lspd | buzz | lsp | ul | font | dblp | emph | mirr | rot | pcut | chsz | inv | bcw | bch | bctp =>
      simp only [wireBytes, List.length_cons, List.length_nil] at hn
      omega

/-- Settles O4, clause by clause. -/
theorem nonFramesRejected : Obligations.NonFramesRejected := by
  intro c
  refine ⟨rfl, fun b t hsp hesc hgs => decode_wire_error (decodeWire_noPrefix hsp hesc hgs t),
    fun hc b t => ⟨?_, ?_, ?_, ?_⟩, ?_, ?_, ?_⟩
  · intro hb
    exact decode_wire_error (by rw [decodeWire_esc hc, decodeEsc_unknown hb])
  · intro hb
    exact decode_wire_error (by rw [decodeWire_gs hc, decodeGs_unknown hb])
  · intro hb
    obtain ⟨hrow, -⟩ := decodeGs_rows hc (b :: t)
    exact decode_wire_error (by rw [decodeWire_gs hc]; exact hrow.trans (decodeCut_parameter hb t))
  · intro hl hh nL nH
    obtain ⟨-, -, hrow, -⟩ := decodeEsc_rows hc (b :: nL :: nH :: t)
    exact decode_wire_error (by rw [decodeWire_esc hc]; exact hrow.trans (decodeBimg_density hl hh nL nH t))
  · intro hc i n hw hpad he h0 hn
    rcases decodeWire_take hc (readable_of_wellFormed hc hw (hpad 0) he) hpad h0 hn with h | ⟨hi, h3, h⟩
    · exact .inl (decode_wire_error h)
    · exact .inr ⟨hi, h3, decode_wire_error h⟩
  · exact fun hc m t ht => decode_wire_error (decodeWire_barcode_noTerminator hc ht m)
  · intro hc i b t hw hi he hb
    have hhead (pad : Nat) (hp : i = .padrun pad) : (b :: t).head? ≠ some c.sp := by simpa using hb ⟨pad, hp⟩
    exact decode_wire_trailing (decodeWire_wireBytes_append hc (readable_of_wellFormed hc hw hi he) hhead)

end Sys2Proof
end

section
/-! SUPPORT. An emitted stream is read back frame by frame (R106), and the stream of a conversion (R219) is such frames. -/

namespace Sys2Proof.Machine

/-! ## Streams of frames and trailers -/

/-- `bs` is put together from the bytes of `items`: readable instructions and trailers, no padding followed by a space. -/
inductive ReadsAs (c : Config) : List Byte → List StreamItem → Prop where
  | nil : ReadsAs c [] []
  | trailer {bs : List Byte} {items : List StreamItem} (h : ReadsAs c bs items) :
      ReadsAs c (trailerBytes c ++ bs) (.trailer :: items)
  | instr {i : Instr} {bs : List Byte} {items : List StreamItem} (hi : i.Readable c)
      (hbs : ∀ pad, i = .padrun pad → bs.head? ≠ some c.sp) (h : ReadsAs c bs items) :
      ReadsAs c (wireBytes c i ++ bs) (.instr i :: items)

theorem headItem_trailer (c : Config) (rest : List Byte) : headItem c (trailerBytes c ++ rest) = .ok (.trailer, rest) := by
  simp [headItem, trailerBytes]

/-- Bytes that read as an instruction begin with `ESC`, `GS` or a space, so they are no trailer. -/
theorem headItem_of_decodeWire {c : Config} {bs rest : List Byte} {i : Instr} (hc : c.parseable = true)
    (h : decodeWire c bs = .ok (i, rest)) : headItem c bs = .ok (.instr i, rest) := by
  obtain ⟨-, -, -, hesc, hgs, hsp⟩ := parseable_controls hc
  have hcr : bs.take 2 ≠ [c.cr, c.lf] := by
    intro hbs
    cases bs with
    | nil => cases hbs
    | cons b t =>
      obtain ⟨rfl, -⟩ := List.cons.inj hbs
      rw [decodeWire_noPrefix hsp.symm hesc.symm hgs.symm] at h
      cases h
  simp [headItem, hcr, h]

theorem wireBytes_ne_nil {c : Config} {i : Instr} (hc : c.parseable = true) (hi : i.Readable c) : wireBytes c i ≠ [] := by
  intro hnil
  have h := decode_wireBytes hc hi
  rw [hnil] at h
  cases h

/-- One item read, and then the rest. -/
theorem parseStreamFuel_of_headItem {c : Config} {bs rest : List Byte} {item : StreamItem} {items : List StreamItem}
    {n : Nat} (hbs : rest.length < bs.length) (hn : bs.length ≤ n) (h : headItem c bs = .ok (item, rest))
    (hrest : ∀ m, rest.length ≤ m → parseStreamFuel c m rest = .ok items) :
    parseStreamFuel c n bs = .ok (item :: items) := by
  cases bs with
  | nil => cases hbs
  | cons b t =>
    cases n with
    | zero => cases hn
    | succ n => simp [parseStreamFuel, h, hrest n (by omega), Except.map]

theorem ReadsAs.parseStreamFuel_eq {c : Config} {bs : List Byte} {items : List StreamItem} (hc : c.parseable = true)
    (h : ReadsAs c bs items) {n : Nat} (hn : bs.length ≤ n) : parseStreamFuel c n bs = .ok items := by
  induction h generalizing n with
  | nil => cases n <;> rfl
  | trailer _ ih =>
    exact parseStreamFuel_of_headItem (by simp) hn (headItem_trailer c _) fun _ => ih
  | instr hi hbs _ ih =>
    have hpos := List.length_pos_iff.2 (wireBytes_ne_nil hc hi)
    have hread := headItem_of_decodeWire hc (decodeWire_wireBytes_append hc hi hbs)
    exact parseStreamFuel_of_headItem (by rw [List.length_append]; omega) hn hread fun _ => ih

theorem ReadsAs.parseStream_eq {c : Config} {bs : List Byte} {items : List StreamItem} (hc : c.parseable = true)
    (h : ReadsAs c bs items) : parseStream c bs = .ok items := h.parseStreamFuel_eq hc le_rfl

/-! ## The stream of a conversion -/

/-- The bit image of band `b` (R211, R212). -/
def bandImage (c : Config) (res : Byte) (w h : Nat) (P : List Bool) (b : Nat) : Instr :=
  .bimg (densOf c res) (BitVec.ofNat 16 (idw c res w)) (bandBytesOf res w h P (b * rowhOf res))

/-- The items of band `b` (R219): padding where there is any, the bit image, the trailer. -/
def bandItems (c : Config) (res just : Byte) (w h : Nat) (P : List Bool) (b : Nat) : List StreamItem :=
  (if jcalc c just (idw c res w) = 0 then [] else [StreamItem.instr (.padrun (jcalc c just (idw c res w)))]) ++
    [StreamItem.instr (bandImage c res w h P b), StreamItem.trailer]

/-- The density of a mode gives each source column three bytes (R184, R99). -/
theorem bytesPerColumn_densOf {c : Config} (hp : c.parseable = true) (hc : c.wf = true) (res : Byte) (w : Nat) :
    (bytesPerColumn c (densOf c res)).map (idw c res w * ·) = some (3 * w) := by
  have hdens : c.densityHigh ≠ c.densityLow := (parseable_densities hp).symm
  unfold densOf
  rw [idw_eq hc]
  split
  · rw [bytesPerColumn, if_pos rfl, Option.map_some, Nat.mul_one, Nat.mul_comm]
  · rw [bytesPerColumn, if_neg hdens, if_pos rfl, Option.map_some, Nat.mul_comm]

section

variable {c : Config} {res : Byte} {w : Nat} (hp : c.parseable = true) (hc : c.wf = true) (hw : idw c res w < 2 ^ 16)
include hp hc hw

theorem bandImage_readable (h : Nat) (P : List Bool) (b : Nat) : (bandImage c res w h P b).Readable c := by
  have hlen : (bandBytesOf res w h P (b * rowhOf res)).length = 3 * w := by simp [bandBytesOf]
  rw [bandImage, Instr.Readable, hlen, BitVec.toNat_ofNat, Nat.mod_eq_of_lt hw]
  exact bytesPerColumn_densOf hp hc res w

/-- A band before a stream that reads back is read as its items. -/
theorem ReadsAs.band {bs : List Byte} {items : List StreamItem} (hr : ReadsAs c bs items) (just : Byte) (h : Nat)
    (P : List Bool) (b : Nat) :
    ReadsAs c (bandUnit c res just w h P b ++ bs) (bandItems c res just w h P b ++ items) := by
  have himage : ReadsAs c (wireBytes c (bandImage c res w h P b) ++ (trailerBytes c ++ bs))
      (.instr (bandImage c res w h P b) :: .trailer :: items) :=
    .instr (bandImage_readable hp hc hw h P b) nofun (.trailer hr)
  have hunit : bandUnit c res just w h P b ++ bs = List.replicate (jcalc c just (idw c res w)) c.sp ++
      (wireBytes c (bandImage c res w h P b) ++ (trailerBytes c ++ bs)) := by
    simp [bandUnit, bandImage, wireBytes, bimgHeader]
  rw [hunit, bandItems]
  split
  · next h0 => rw [h0]; exact himage
  · next h0 =>
    obtain ⟨hesc, -⟩ := parseable_controls hp
    exact .instr (i := .padrun _) h0 (fun _ _ => by simpa [bandImage, wireBytes] using hesc) himage

theorem ReadsAs.bands {bs : List Byte} {items : List StreamItem} (hr : ReadsAs c bs items) (just : Byte) (h : Nat)
    (P : List Bool) (l : List Nat) :
    ReadsAs c (l.flatMap (bandUnit c res just w h P) ++ bs) (l.flatMap (bandItems c res just w h P) ++ items) := by
  induction l with
  | nil => exact hr
  | cons b l ih =>
    rw [List.flatMap_cons, List.flatMap_cons, List.append_assoc, List.append_assoc]
    exact ih.band hp hc hw just h P b

end

/-- Settles O6: from its end, the stream is `LSPD`, the bands before it, and `LSP` before these. -/
theorem conversionStreamParsesBack : Obligations.ConversionStreamParsesBack := by
  intro c res just w h P hp hc _ hw
  have hend : ReadsAs c (lspdBytes c) [.instr .lspd] := .instr (i := .lspd) trivial nofun .nil
  have hbands := hend.bands hp hc hw just h P (List.range (bandCount res h))
  exact (ReadsAs.instr (i := .lsp (pitchOf c res)) trivial nofun hbands).parseStream_eq hp

end Sys2Proof.Machine
end

section
/-! SUPPORT. The requests of R90 at `BUSY` = 0: which a `FRAME` stands for (R110), which the machine cannot hold (R107), and
which have no request form. -/

namespace Sys2Proof.Machine

/-- At `BUSY` = 0 the step runs the presented request and takes it off the lines (R201). -/
theorem step_presented {s : State} {r : Request} {i : Instr} (hr : s.rst = false) (hb : s.busy = false)
    (hd : decode s.cfg r = .ok i) (rest : List Request) :
    step { s with reqs := r :: rest } = exec i { s with reqs := rest } := by
  rw [step_quiescent (s := { s with reqs := r :: rest }) hr hb]
  simp [fetch, hd]

/-- A `FRAME` request that does not fit is refused (R107). -/
theorem requestFrame_refuses {fd : FrameDesc} {s : State} (hb : s.busy = false) (hc : s.cfg.wf = true)
    (hf : s.cfg.frameMax < fd.par.length) : requestFrame fd s = .refused .frameTooLong := by
  have hfits : parFits fd.par s.cfg.frameMax ≠ true := fun h => Nat.not_le.2 hf ((parFits_iff _ _).1 h)
  simp [requestFrame, whenIdle_accepts _ hb hc, hfits]

/-- Settles O9: at `BUSY` = 0 a `FRAME` is the request of its frame, which does not fit. -/
theorem oversizeFrameRefused : Obligations.OversizeFrameRefused := by
  intro s pfx code par zt hb hc hf
  exact requestFrame_refuses (fd := ⟨pfx, code, par, zt⟩) hb hc hf

/-- A named request inside its domain is the request of its frame (R110). -/
theorem exec_named {s : State} {i : Instr} {fd : FrameDesc} (hfd : namedDescriptor s.cfg i = some fd)
    (hw : i.wellFormed s.cfg = true) : exec i s = requestFrame fd s := by
  cases i with
  | encode | frame | bimg | padrun => cases hfd
  | ul | chsz =>
    cases hfd
    exact if_pos hw
  | bcode m payload =>
    cases hfd
    simp only [Instr.wellFormed, Bool.and_eq_true, decide_eq_true_eq] at hw
    obtain ⟨hbytes, hlen⟩ := hw
    have hfits : parFits (m :: payload) s.cfg.frameMax = true := (parFits_iff _ _).2 (by simpa [Nat.add_comm] using hlen)
    exact if_pos (by rw [hbytes, hfits]; rfl)
  | lsp | lspd | buzz | pcut | font | dblp | emph | inv | mirr | rot | bcw | bch | bctp =>
    cases hfd
    rfl

/-- The wire bytes of a named request are those of its frame (R104, R93). -/
theorem wireBytes_named {c : Config} {i : Instr} {fd : FrameDesc} (hfd : namedDescriptor c i = some fd) :
    wireBytes c i = frameBytes c fd := by
  cases i with
  | encode | frame | bimg | padrun => cases hfd
  | lsp | lspd | buzz | pcut | ul | chsz | font | dblp | emph | inv | mirr | rot | bcw | bch | bctp | bcode =>
    cases hfd
    rfl

/-- Settles O16: both are the request of one frame, and both are read from the lines as they stand. -/
theorem namedRequestsAreFrames : Obligations.NamedRequestsAreFrames := by
  intro s i fd hfd hw
  refine ⟨exec_named hfd hw, wireBytes_named hfd, fun rest hr hb => ?_⟩
  calc step { s with reqs := .named i :: rest }
      = exec i { s with reqs := rest } := step_presented hr hb rfl rest
    _ = requestFrame fd { s with reqs := rest } := exec_named (s := { s with reqs := rest }) hfd hw
    _ = step { s with reqs := .frameRec fd.pfx fd.code fd.par fd.zt :: rest } :=
      (step_presented (i := .frame fd.pfx fd.code fd.par fd.zt) hr hb rfl rest).symm

/-- On a quiescent machine `BIMG` is refused (log entry 13). -/
theorem exec_bimg_quiescent {s : State} (hb : s.busy = false) (m : Byte) (cols : BitVec 16) (d : List Byte) :
    exec (.bimg m cols d) s = .refused .noRequestForm := by
  rcases (busy_eq_false_iff s).1 hb with hp | hp | hp <;> simp [exec, execBimg, hp]

/-- On a quiescent machine `PADRUN` is refused (log entry 13). -/
theorem exec_padrun_quiescent {s : State} (hb : s.busy = false) (pad : Nat) :
    exec (.padrun pad) s = .refused .noRequestForm := by
  rcases (busy_eq_false_iff s).1 hb with hp | hp | hp <;> simp [exec, execPadrun, hp]

/-- Settles O17: a step at `BUSY` = 0 is the meaning of what is presented. -/
theorem bandEmissionsAreNoRequests : Obligations.BandEmissionsAreNoRequests := by
  intro s m cols d pad rest hb
  refine ⟨exec_bimg_quiescent hb m cols d, exec_padrun_quiescent hb pad, fun hr => ⟨?_, ?_⟩⟩
  · rw [step_presented hr hb rfl rest]
    exact exec_bimg_quiescent (s := { s with reqs := rest }) hb m cols d
  · rw [step_presented hr hb rfl rest]
    exact exec_padrun_quiescent (s := { s with reqs := rest }) hb pad

end Sys2Proof.Machine
end

section
/-! SUPPORT. The padding `JCALC` gives (R157): what it leaves free, and its ranges on the reference page (R160). -/

namespace Sys2Proof.Machine

/-! ## `JCALC` by justification -/

@[simp] theorem jcalc_left (c : Config) (n : Nat) : jcalc c 0 n = 0 := rfl

@[simp] theorem jcalc_center (c : Config) (n : Nat) : jcalc c 1 n = (c.deviceWidth - n) / 2 / c.padUnit := rfl

@[simp] theorem jcalc_right (c : Config) (n : Nat) : jcalc c 2 n = (c.deviceWidth - n) / c.padUnit := rfl

/-- The padding is no wider than what the image leaves free: a truncating division never rounds up. -/
theorem jcalc_mul_padUnit_le (c : Config) (just : Byte) (n : Nat) : jcalc c just n * c.padUnit ≤ c.deviceWidth - n := by
  unfold jcalc
  split_ifs
  · simp
  · exact (Nat.div_mul_le_self _ _).trans (Nat.div_le_self _ _)
  · exact Nat.div_mul_le_self _ _

/-- An image that passes the checks is no wider than the page (R153, R7). -/
theorem idw_le_deviceWidth {c : Config} {res just : Byte} {w h : Nat} (hc : c.wf = true)
    (hpass : precheck c res just w h = .pass) : idw c res w ≤ c.deviceWidth := by
  obtain ⟨hlow, hhigh, -⟩ := (Config_wf_iff c).1 hc
  obtain ⟨-, -, -, -, hfits, -⟩ := (precheck_pass_iff c res just w h).1 hpass
  refine hfits.trans ?_
  unfold limitOf
  split
  · exact hlow
  · exact hhigh

/-! ## The statements -/

/-- Settles O22: the padding is at most what is free; Right truncates once, Center twice. -/
theorem paddingStaysOnThePage : Obligations.PaddingStaysOnThePage := by
  intro c res just w h hc hpass
  obtain ⟨-, -, hunit, -⟩ := (Config_wf_iff c).1 hc
  have hfits := idw_le_deviceWidth hc hpass
  have hpad := jcalc_mul_padUnit_le c just (idw c res w)
  refine ⟨by omega, ?_, ?_⟩
  · rintro rfl
    have hfree := Nat.lt_div_mul_add (a := c.deviceWidth - idw c res w) hunit
    rw [jcalc_right]
    omega
  · rintro rfl
    have hhalf := Nat.lt_div_mul_add (a := (c.deviceWidth - idw c res w) / 2) hunit
    rw [jcalc_center]
    omega

/-- Settles O23: each range is one of a truncated quotient of the free dot-columns. -/
theorem paddingRanges : Obligations.PaddingRanges := by
  intro c n hwidth hunit hpos hmax
  have hcenter : jcalc c 1 n = (576 - n) / 2 / 12 := by rw [jcalc_center, hwidth, hunit]
  have hright : jcalc c 2 n = (576 - n) / 12 := by rw [jcalc_right, hwidth, hunit]
  exact ⟨jcalc_left c n, by omega⟩

end Sys2Proof.Machine
end

section
/-! SUPPORT. Which steps are refused: a request by the domain of what it asks for, the `CHECK` step by the height of the
image, nothing else (R155, R107, R245, R246, R259). -/

namespace Sys2Proof.Machine

/-! ## Requests -/

/-- A request is refused for what is read from it, however it is presented (R92). -/
theorem refusedFor_of_decode {c : Config} {q : Request} {i : Instr} {r : Refusal} (hd : decode c q = .ok i) :
    RefusedFor c q r ↔ RefusedFor c (.named i) r := by
  unfold RefusedFor
  rw [hd]
  rfl

/-- Everything a `FRAME` request is refused for under a well-formed configuration (R107). -/
theorem requestFrame_refused_iff {fd : FrameDesc} {s : State} {r : Refusal} (hb : s.busy = false)
    (hc : s.cfg.wf = true) :
    requestFrame fd s = .refused r ↔ r = .frameTooLong ∧ s.cfg.frameMax < fd.par.length := by
  rcases Nat.lt_or_ge s.cfg.frameMax fd.par.length with hf | hf
  · simp [requestFrame_refuses hb hc hf, hf, eq_comm]
  · simp [requestFrame_accepts hb hc hf, hf]

/-- A frame that fits is not refused. -/
theorem requestFrame_ne_refused {fd : FrameDesc} {s : State} {r : Refusal} (hb : s.busy = false)
    (hc : s.cfg.wf = true) (hf : fd.par.length ≤ s.cfg.frameMax) : requestFrame fd s ≠ .refused r := fun h =>
  Nat.not_lt.2 hf ((requestFrame_refused_iff hb hc).1 h).2

/-- A request guarded by its domain is refused exactly outside it, if its frame fits (R245, R246, R259). -/
theorem guarded_refused_iff {guard : Bool} {domain : Prop} (hd : guard = true ↔ domain) {fd : FrameDesc} {s : State}
    {r outside : Refusal} (hb : s.busy = false) (hc : s.cfg.wf = true)
    (hf : domain → fd.par.length ≤ s.cfg.frameMax) :
    (if guard then requestFrame fd s else .refused outside) = .refused r ↔ r = outside ∧ ¬domain := by
  rw [← hd] at hf ⊢
  split
  · next hg => simp [requestFrame_ne_refused hb hc (hf hg), hg]
  · next hg => simp [hg, eq_comm]

theorem underlineDomain_iff (m : Byte) : underlineDomain m = true ↔ m = 0x30 ∨ m = 0x31 ∨ m = 0x32 :=
  decide_eq_true_iff

theorem magDomains_iff (hmag vmag : Nat) :
    (magDomain hmag && magDomain vmag) = true ↔ 1 ≤ hmag ∧ hmag ≤ 16 ∧ 1 ≤ vmag ∧ vmag ≤ 16 := by
  simp [magDomain, and_assoc]

theorem payloadDomain_iff (m : Byte) (payload : List Byte) (n : Nat) :
    (payload.all payloadByte && parFits (m :: payload) n) = true ↔
      (∀ b ∈ payload, 1 ≤ b.toNat ∧ b.toNat ≤ 0x7F) ∧ 1 + payload.length ≤ n := by
  rw [Bool.and_eq_true, parFits_iff, List.length_cons, Nat.add_comm]
  simp [payloadByte]

/-- On a quiescent machine an instruction is refused exactly for the reasons of its request. -/
theorem exec_refused_iff {i : Instr} {s : State} {r : Refusal} (hb : s.busy = false) (hc : s.cfg.wf = true) :
    exec i s = .refused r ↔ RefusedFor s.cfg (.named i) r := by
  obtain ⟨-, -, -, -, -, -, hmax⟩ := (Config_wf_iff s.cfg).1 hc
  have hone : 1 ≤ s.cfg.frameMax := Nat.pos_of_ne_zero hmax
  cases i with
  | encode r j => simp [exec, execEncode, whenIdle_accepts _ hb hc, RefusedFor, decode]
  | frame pfx code par zt => exact requestFrame_refused_iff (fd := ⟨pfx, code, par, zt⟩) hb hc
  | lspd | buzz => exact iff_of_false (requestFrame_ne_refused hb hc (Nat.zero_le _)) id
  | lsp | pcut | font | dblp | emph | inv | mirr | rot | bcw | bch | bctp =>
    exact iff_of_false (requestFrame_ne_refused hb hc hone) id
  | ul m => exact guarded_refused_iff (underlineDomain_iff m) hb hc fun _ => hone
  | chsz hmag vmag => exact guarded_refused_iff (magDomains_iff hmag vmag) hb hc fun _ => hone
  | bcode m payload =>
    exact guarded_refused_iff (payloadDomain_iff m payload s.cfg.frameMax) hb hc fun ⟨_, hlen⟩ =>
      (Nat.add_comm _ 1).trans_le hlen
  | bimg m cols d =>
    rw [exec_bimg_quiescent hb]
    simp [RefusedFor, decode, eq_comm]
  | padrun pad =>
    rw [exec_padrun_quiescent hb]
    simp [RefusedFor, decode, eq_comm]

/-- At `BUSY` = 0 a step is refused exactly for the presented request. -/
theorem step_quiescent_refused_iff {s : State} {r : Refusal} (hr : s.rst = false) (hb : s.busy = false)
    (hc : s.cfg.wf = true) :
    step s = .refused r ↔ ∃ q rest, s.reqs = q :: rest ∧ RefusedFor s.cfg q r := by
  rw [step_quiescent hr hb, fetch]
  cases hq : s.reqs with
  | nil => simp [wait]
  | cons q rest =>
    have hhead : (∃ q' rest', q :: rest = q' :: rest' ∧ RefusedFor s.cfg q' r) ↔ RefusedFor s.cfg q r :=
      ⟨fun ⟨_, _, he, h⟩ => (List.cons.inj he).1 ▸ h, fun h => ⟨q, rest, rfl, h⟩⟩
    rw [hhead]
    cases hd : decode s.cfg q with
    | error e => simp [RefusedFor, hd, eq_comm]
    | ok i =>
      rw [refusedFor_of_decode hd]
      simp only [hd]
      exact exec_refused_iff (s := { s with reqs := rest }) hb hc

/-! ## The steps of an operation -/

theorem chPut_ne_refused (b : Byte) (cont : State → State) (s : State) (r : Refusal) : chPut b cont s ≠ .refused r := by
  unfold chPut
  split <;> exact nofun

theorem packPixel_ne_refused (p : Bool) (s : State) (r : Refusal) : packPixel p s ≠ .refused r := by
  unfold packPixel
  split <;> exact nofun

theorem fillStep_ne_refused (s : State) (r : Refusal) : fillStep s ≠ .refused r := by
  unfold fillStep
  split
  · rcases srcNext_cases packPixel s with ⟨-, h⟩ | ⟨p, as, -, h⟩ | ⟨as, -, h⟩ | ⟨as, -, h⟩ <;> rw [h]
    case inr.inl => exact packPixel_ne_refused p _ r
    all_goals exact nofun
  · exact packPixel_ne_refused false s r

theorem replStep_ne_refused (s : State) (r : Refusal) : replStep s ≠ .refused r := by
  unfold replStep
  split <;> exact nofun

/-- The checks on an answered header refuse exactly a height that cannot be latched (R155). -/
theorem checkHeader_refused_iff {w h : Nat} {s : State} {r : Refusal} :
    checkHeader w h s = .refused r ↔
      r = .heightNotRepresentable ∧ precheck s.cfg s.res s.just w h = .refuses := by
  unfold checkHeader
  cases precheck s.cfg s.res s.just w h <;> simp [eq_comm]

/-- The `CHECK` step is refused exactly for an answered header that is (R203). -/
theorem checkStep_refused_iff {s : State} {r : Refusal} :
    checkStep s = .refused r ↔ r = .heightNotRepresentable ∧
      ∃ w h as, s.hdrAns = .hdr w h :: as ∧ precheck s.cfg s.res s.just w h = .refuses := by
  unfold checkStep
  rcases srcHdr_cases checkHeader s with ⟨ha, h⟩ | ⟨w, hh, as, ha, h⟩ | ⟨as, ha, h⟩ | ⟨as, ha, h⟩ <;> rw [h, ha]
  case inr.inl =>
    refine checkHeader_refused_iff.trans (and_congr_right fun _ => ⟨fun hp => ⟨w, hh, as, rfl, hp⟩, ?_⟩)
    rintro ⟨w', h', as', he, hp⟩
    cases he
    exact hp
  all_goals simp

/-- A busy machine in range is refused in `CHECK` only: it writes a byte, packs a pixel, replicates a column or ends the
padding. -/
theorem step_busy_ne_refused {s : State} (hs : Inv s) (hr : s.rst = false) (hb : s.busy = true)
    (hcheck : s.phase ≠ .check) (r : Refusal) : step s ≠ .refused r := by
  cases he : emitted s with
  | some b =>
    rw [step_of_emitted hr he]
    exact chPut_ne_refused b afterSend s r
  | none =>
    obtain hp | hp | hp | ⟨hp, hk⟩ := silent_phases hb hs.config hs.ranges he
    · exact absurd hp hcheck
    · rw [step_fill hr hp]
      exact fillStep_ne_refused s r
    · rw [step_repl hr hp]
      exact replStep_ne_refused s r
    · rw [step_padout hr hp, if_neg (Nat.not_lt.2 hk)]
      exact nofun

/-- Settles O53: at `BUSY` = 0 the presented request decides, in `CHECK` the answered header, and every other step is the
reset or one that is never refused. -/
theorem onlyNamedRefusals : Obligations.OnlyNamedRefusals := by
  intro s r hs
  cases hr : s.rst with
  | true => simp [step_reset hr]
  | false =>
    cases hb : s.busy with
    | false =>
      have hcheck : s.phase ≠ .check := fun hp => by simp [State.busy, hp, Phase.quiescent] at hb
      simp [step_quiescent_refused_iff hr hb hs.config, hcheck]
    | true =>
      by_cases hp : s.phase = .check
      · simp [step_check hr hp, checkStep_refused_iff, hp]
      · simp [step_busy_ne_refused hs hr hb hp, hp]

end Sys2Proof.Machine
end

section
/-! SUPPORT. The bits of a band's bytes: what `PACK` writes (R176), what the closed form holds (R184), and that unpacking
the closed form gives the pixels back (R185). -/

namespace Sys2Proof.Machine

/-! ## One bit of one byte -/

/-- The mask of a sub-row has that sub-row's bit and no other (R62). -/
theorem packMask_getLsbD (i j : Nat) : (packMask i).getLsbD j = decide (j = 7 - i % 8) := by
  have htop : (0x80 : Byte) = BitVec.twoPow 8 7 := rfl
  rw [packMask, BitVec.getLsbD_ushiftRight, htop, BitVec.getLsbD_twoPow]
  simp only [Nat.reduceLT, decide_true, Bool.true_and, decide_eq_decide]
  omega

/-- The byte `PACK` stores has the pixel in its sub-row's bit and the old byte's bits elsewhere (R176). -/
theorem packByte_getLsbD (old : Byte) (i : Nat) (p : Bool) (j : Nat) :
    (packByte old i p).getLsbD j = if j = 7 - i % 8 then p else old.getLsbD j := by
  have hpixel : (if p then packMask i else 0).getLsbD j = (p && decide (j = 7 - i % 8)) := by
    cases p
    · exact BitVec.getLsbD_zero
    · exact packMask_getLsbD i j
  rw [packByte, BitVec.getLsbD_or, BitVec.getLsbD_and, BitVec.getLsbD_not, packMask_getLsbD, hpixel]
  split
  · next hj => simp [hj]
  · next hj => simpa [hj] using BitVec.lt_of_getLsbD

/-- Settles O25: the stored byte is the old one but for the sub-row's bit, and `PACK` writes no other byte. -/
theorem packWritesOneBit : Obligations.PackWritesOneBit := by
  intro s x i p old hfit hold
  have hpack := (pack_ok (p := p)).2 ⟨hfit, old, hold, rfl⟩
  have hbit := packByte_getLsbD old i p
  refine ⟨_, packByte old i p, hpack, rfl, Memory.read_write_same _ _ _, rfl, ?_, fun j _ hne => ?_, fun a ha => ?_⟩
  · rw [hbit, if_pos rfl]
  · rw [hbit, if_neg hne]
  · exact Memory.read_write_other _ _ ha

/-! ## The closed form -/

/-- The sum of R184 is the byte with row 0 in its top bit. -/
theorem byteOfRows_eq_ofFnBE (f : Nat → Bool) : byteOfRows f = BitVec.ofFnBE fun j : Fin 8 => f j := by
  have hsum : ((List.range 8).map fun j => (f j).toNat <<< (7 - j)).sum =
      Nat.ofBits ((fun j : Fin 8 => f j) ∘ Fin.rev) := by
    simp [List.range_succ, Nat.ofBits_succ, Nat.shiftLeft_eq]
    omega
  apply BitVec.eq_of_toNat_eq
  rw [byteOfRows, hsum, BitVec.toNat_ofNat, BitVec.toNat_ofFnBE, Nat.mod_eq_of_lt (Nat.ofBits_lt_two_pow _)]

theorem byteOfRows_getLsbD (f : Nat → Bool) {j : Nat} (hj : j < 8) : (byteOfRows f).getLsbD (7 - j) = f j := by
  rw [byteOfRows_eq_ofFnBE, BitVec.getLsbD_ofFnBE, dif_pos (by omega), Fin.val_rev]
  exact congrArg f (by simp; omega)

/-- A byte is known by its rows. -/
theorem eq_byteOfRows {b : Byte} {f : Nat → Bool} (h : ∀ j < 8, b.getLsbD (7 - j) = f j) : b = byteOfRows f := by
  refine BitVec.eq_of_getLsbD_eq fun j hj => ?_
  have hrow : 7 - j < 8 := by omega
  have hbit : j = 7 - (7 - j) := by omega
  rw [hbit, h _ hrow, byteOfRows_getLsbD f hrow]

/-- Byte `k` of column `x` holds the rows of its own group in High mode, the first eight in Low mode (R184). -/
theorem bandByte_eq (res : Byte) (w h : Nat) (P : List Bool) (y x : Nat) {k : Nat} (hk : k < 3) :
    bandByte res w h P y (3 * x + k) = byteOfRows fun j => pix w h P y x (if res = 0 then j else 8 * k + j) := by
  have hx : (3 * x + k) / 3 = x := by omega
  have hg : (3 * x + k) % 3 = k := by omega
  rw [bandByte, hx, hg]

theorem rowhOf_le (res : Byte) : rowhOf res ≤ 24 := by
  unfold rowhOf
  split <;> decide

/-- The bit R185 reads for a pixel. -/
theorem unpackPixel_eq_getLsbD (band : List Byte) (x i : Nat) :
    unpackPixel band x i = (band.getD (3 * x + i / 8) 0).getLsbD (7 - i % 8) := by
  have hone : (1 : Byte) = BitVec.twoPow 8 0 := rfl
  have hbit : ∀ q : Bool, decide ((if q then BitVec.twoPow 8 0 else 0) = BitVec.twoPow 8 0) = q := by decide
  rw [unpackPixel, hone, BitVec.and_twoPow, BitVec.getLsbD_ushiftRight]
  exact hbit _

/-- Settles O30: the byte and the bit `PACK` gives a pixel hold it in the closed form, whose sub-rows are all of the group
in High mode and the first group in Low mode. -/
theorem bandRoundTrip : Obligations.BandRoundTrip := by
  intro res w h P y x i hx hi
  have hrow : (if res = 0 then i % 8 else 8 * (i / 8) + i % 8) = i := by
    unfold rowhOf Config.rowhLow at hi
    split_ifs at hi ⊢ <;> omega
  have hi24 := hi.trans_le (rowhOf_le res)
  have hbyte : (bandBytesOf res w h P y).getD (3 * x + i / 8) 0 = bandByte res w h P y (3 * x + i / 8) := by
    have hlt : 3 * x + i / 8 < 3 * w := by omega
    simp [bandBytesOf, hlt]
  rw [unpackPixel_eq_getLsbD, hbyte, bandByte_eq _ _ _ _ _ _ (by omega),
    byteOfRows_getLsbD _ (Nat.mod_lt _ (by decide)), hrow]

end Sys2Proof.Machine
end

section
/-! SUPPORT. The tiler over a whole band (R173 to R184): the pixels it has packed so far, and that it goes on until the band
holds its closed form. -/

namespace Sys2Proof.Machine

/-! ## Runs -/

/-- Some number of steps leads from `s` to `t`. -/
def LeadsTo (s t : State) : Prop := ∃ n, runSteps n s = .next t

namespace LeadsTo

variable {s t u : State}

theorem refl (s : State) : LeadsTo s s := ⟨0, rfl⟩

theorem head (h : step s = .next t) (ht : LeadsTo t u) : LeadsTo s u := by
  obtain ⟨n, hn⟩ := ht
  exact ⟨n + 1, by simp only [runSteps, h, hn]⟩

theorem trans (h : LeadsTo s t) (ht : LeadsTo t u) : LeadsTo s u := by
  obtain ⟨n, hn⟩ := h
  induction n generalizing s with
  | zero =>
    cases hn
    exact ht
  | succ n ih =>
    simp only [runSteps] at hn
    split at hn
    · next hs => exact (ih hn).head hs
    · cases hn
    · cases hn

/-- Steps that keep `I` while a measure falls, as long as they do not reach `Q`, reach `Q`. -/
theorem of_measure {I Q : State → Prop} (μ : State → Nat)
    (hstep : ∀ t, I t → ∃ u, step t = .next u ∧ (Q u ∨ I u ∧ μ u < μ t)) {s : State} (hs : I s) :
    ∃ t, LeadsTo s t ∧ Q t := by
  obtain ⟨t, ht, hQ | ⟨hI, hlt⟩⟩ := hstep s hs
  · exact ⟨t, (refl t).head ht, hQ⟩
  · obtain ⟨u, hu, hQ⟩ := of_measure μ hstep hI
    exact ⟨u, hu.head ht, hQ⟩
termination_by μ s

end LeadsTo

/-! ## Moves of the tiler -/

/-- `t` differs from `s` at most in `PHASE`, the counters other than `Y`, `BUF` and the pixels taken. -/
def TilerMove (s t : State) : Prop :=
  t = { s with phase := t.phase, i := t.i, x := t.x, k := t.k, buf := t.buf, npx := t.npx, pxAns := t.pxAns }

namespace TilerMove

section

variable {s t : State} (hm : TilerMove s t)
include hm

theorem res : t.res = s.res := (congrArg State.res hm :)

theorem w : t.w = s.w := (congrArg State.w hm :)

theorem h : t.h = s.h := (congrArg State.h hm :)

theorem rowh : t.rowh = s.rowh := (congrArg State.rowh hm :)

theorem y : t.y = s.y := (congrArg State.y hm :)

theorem errcode : t.errcode = s.errcode := (congrArg State.errcode hm :)

theorem out : t.out = s.out := (congrArg State.out hm :)

theorem ch : t.ch = s.ch := (congrArg State.ch hm :)

theorem rst : t.rst = s.rst := (congrArg State.rst hm :)

end

theorem trans {s t u : State} (h : TilerMove s t) (hu : TilerMove t u) : TilerMove s u := by
  unfold TilerMove at *
  calc u = _ := hu
    _ = _ := by rw [h]

theorem advancePixel (s : State) : TilerMove s (advancePixel s) := by
  unfold Machine.advancePixel endFill
  split_ifs <;> rfl

theorem advanceColumn (s : State) : TilerMove s (advanceColumn s) := by
  unfold Machine.advanceColumn
  split <;> rfl

theorem replicatedColumn {s u : State} {x : Nat} (h : replicate x s = .ok u) :
    TilerMove s (Machine.advanceColumn u) := by
  obtain ⟨-, -, -, rfl⟩ := replicate_ok.1 h
  exact advanceColumn { s with buf := _ }

end TilerMove

/-! ## The pixels of a band -/

/-- Row-major order: a pixel of row `i` comes before row `i + 1`. -/
theorem rowMajor_lt {w x i n : Nat} (hx : x < w) (hi : i < n) : i * w + x < n * w :=
  calc i * w + x < i * w + w := Nat.add_lt_add_left hx _
    _ = (i + 1) * w := (Nat.succ_mul i w).symm
    _ ≤ n * w := Nat.mul_le_mul_right w hi

/-- A place in row-major order is that of one column and one row. -/
theorem eq_of_rowMajor_eq {w x i x' i' : Nat} (hx : x < w) (hx' : x' < w) (h : i' * w + x' = i * w + x) :
    x' = x ∧ i' = i := by
  rcases Nat.lt_trichotomy i' i with hlt | rfl | hlt
  · have := rowMajor_lt hx' hlt
    omega
  · exact ⟨Nat.add_left_cancel h, rfl⟩
  · have := rowMajor_lt hx hlt
    omega

/-- The real sub-rows of the present band (R172, R173). -/
def realRows (s : State) : Nat := min s.rowh (s.h - s.y)

/-- The pixels of the image `P` that the present band takes (R173, R66). -/
def bandPixels (s : State) (P : List Bool) : List Bool := (P.drop (s.y * s.w)).take (realRows s * s.w)

section

variable {s : State} {P : List Bool} {x i : Nat}

theorem bandPixels_length (hP : P.length = s.w * s.h) : (bandPixels s P).length = realRows s * s.w := by
  have hrows : realRows s ≤ s.h - s.y := Nat.min_le_right _ _
  have hfits : realRows s * s.w ≤ s.w * s.h - s.y * s.w := by
    rw [Nat.mul_comm s.w, ← Nat.sub_mul]
    exact Nat.mul_le_mul_right _ hrows
  rw [bandPixels, List.length_take, List.length_drop, hP, Nat.min_eq_left hfits]

/-- In a real sub-row the next pixel of the band is that of R175. -/
theorem bandPixels_drop_real (hP : P.length = s.w * s.h) (hi : i < s.rowh) (hx : x < s.w) (hy : s.y + i < s.h) :
    (bandPixels s P).drop (i * s.w + x) = pix s.w s.h P s.y x i :: (bandPixels s P).drop (i * s.w + x + 1) := by
  have hlt : i * s.w + x < (bandPixels s P).length := by
    rw [bandPixels_length hP]
    exact rowMajor_lt hx (lt_min hi (by omega))
  have hmem : (s.y + i) * s.w + x < P.length := by
    rw [hP, Nat.mul_comm s.w]
    exact rowMajor_lt hx hy
  have hpos : s.y * s.w + (i * s.w + x) = (s.y + i) * s.w + x := by rw [Nat.add_mul, Nat.add_assoc]
  have hpix : pix s.w s.h P s.y x i = P[(s.y + i) * s.w + x] := by
    rw [pix, if_pos hy, List.getD_eq_getElem _ _ hmem]
  rw [List.drop_eq_getElem_cons hlt, hpix]
  simp only [bandPixels, List.getElem_take, List.getElem_drop, hpos]

/-- From the first synthesized sub-row on no pixel of the band is left. -/
theorem bandPixels_drop_clear (hP : P.length = s.w * s.h) (hi : realRows s ≤ i) (x : Nat) :
    (bandPixels s P).drop (i * s.w + x) = [] := by
  rw [List.drop_eq_nil_iff, bandPixels_length hP]
  exact (Nat.mul_le_mul_right _ hi).trans (Nat.le_add_right _ _)

end

/-- The pixel at column `x`, sub-row `i` stands in `BUF` where `PACK` puts it (R62, R176). -/
def PixelPacked (m : Memory) (x i : Nat) (p : Bool) : Prop :=
  ∃ b, m.read (packAddr x i) = some b ∧ b.getLsbD (7 - i % 8) = p

/-- What `PACK` stores holds its pixel. -/
theorem pixelPacked_write_same (m : Memory) (x i : Nat) (old : Byte) (p : Bool) :
    PixelPacked (m.write (packAddr x i) (packByte old i p)) x i p :=
  ⟨packByte old i p, Memory.read_write_same _ _ _, by rw [packByte_getLsbD, if_pos rfl]⟩

/-- `PACK` leaves every other pixel of the band in place: it is another bit, or in another byte. -/
theorem PixelPacked.write_other {m : Memory} {x i x' i' : Nat} {q : Bool} (h : PixelPacked m x' i' q) (hi : i < 24)
    (hi' : i' < 24) (hne : ¬(x' = x ∧ i' = i)) {old : Byte} (hold : m.read (packAddr x i) = some old) (p : Bool) :
    PixelPacked (m.write (packAddr x i) (packByte old i p)) x' i' q := by
  obtain ⟨b, hb, hq⟩ := h
  by_cases ha : packAddr x' i' = packAddr x i
  · have hbit : 7 - i' % 8 ≠ 7 - i % 8 := by
      unfold packAddr Config.bpc at ha
      omega
    have hbo : b = old := by rw [ha, hold] at hb; exact (Option.some.inj hb).symm
    exact ⟨packByte old i p, by rw [ha, Memory.read_write_same], by rw [packByte_getLsbD, if_neg hbit, ← hbo, hq]⟩
  · exact ⟨b, by rw [Memory.read_write_other _ _ ha, hb], hq⟩

/-- A byte whose eight pixels are packed is the closed form of them. -/
theorem read_of_pixelPacked {m : Memory} {x k : Nat} {f : Nat → Bool}
    (h : ∀ j < 8, PixelPacked m x (8 * k + j) (f j)) : m.read (3 * x + k) = some (byteOfRows f) := by
  have haddr : ∀ j < 8, packAddr x (8 * k + j) = 3 * x + k := fun j hj => by
    unfold packAddr Config.bpc
    omega
  obtain ⟨b, hb, -⟩ := h 0 (by decide)
  rw [haddr 0 (by decide)] at hb
  rw [hb]
  refine congrArg some (eq_byteOfRows fun j hj => ?_)
  obtain ⟨c, hc, hbit⟩ := h j hj
  rw [haddr j hj, hb] at hc
  have hmod : (8 * k + j) % 8 = j := by omega
  rw [Option.some.inj hc, ← hbit, hmod]

/-! ## The `FILL` phase -/

/-- `n` pixels of the band are behind the tiler: they stand in `BUF`, and the source still has those of the real rows that
come after them, with which `N` pixels will have been taken, and then the answers `ps`. -/
structure Tiled (P : List Bool) (ps : List PxAnswer) (N n : Nat) (s : State) : Prop where
  image : P.length = s.w * s.h
  rows : s.rowh = rowhOf s.res
  source : s.pxAns = ((bandPixels s P).drop n).map .px ++ ps
  count : s.npx + ((bandPixels s P).drop n).length = N
  packed : ∀ x < s.w, ∀ i < s.rowh, i * s.w + x < n → PixelPacked s.buf x i (pix s.w s.h P s.y x i)

variable {P : List Bool} {ps : List PxAnswer} {N n : Nat}

/-- Where the tiler goes next does not matter for what is behind it. -/
theorem Tiled.advancePixel {s : State} (h : Tiled P ps N n s) : Tiled P ps N n (advancePixel s) := by
  obtain ⟨himage, hrows, hsource, hcount, hpacked⟩ := h
  unfold Machine.advancePixel endFill
  split_ifs <;> exact ⟨himage, hrows, hsource, hcount, hpacked⟩

/-- The `FILL` step packs the pixel of R175 at (`X`, `I`), and takes it from the source in a real sub-row. -/
theorem Tiled.fillStep_eq {s : State} (h : Tiled P ps N (s.i * s.w + s.x) s) (hi : s.i < s.rowh) (hx : s.x < s.w) :
    ∃ as c, fillStep s = packPixel (pix s.w s.h P s.y s.x s.i) { s with pxAns := as, npx := c } ∧
      as = ((bandPixels s P).drop (s.i * s.w + s.x + 1)).map .px ++ ps ∧
      c + ((bandPixels s P).drop (s.i * s.w + s.x + 1)).length = N := by
  obtain ⟨himage, -, hsource, hcount, -⟩ := h
  unfold fillStep
  split
  · next hy =>
    rw [bandPixels_drop_real himage hi hx hy, List.map_cons, List.cons_append] at hsource
    rw [bandPixels_drop_real himage hi hx hy, List.length_cons] at hcount
    refine ⟨_, s.npx + 1, ?_, rfl, by omega⟩
    simp only [srcNext, hsource]
  · next hy =>
    have hrows : realRows s ≤ s.i := (Nat.min_le_right _ _).trans (by omega)
    have hnone := bandPixels_drop_clear himage hrows s.x
    have hnext := bandPixels_drop_clear himage hrows (s.x + 1)
    rw [Nat.add_assoc, hnext, ← hnone]
    exact ⟨s.pxAns, s.npx, by rw [pix, if_neg hy], hsource, hcount⟩

/-- Packing the pixel at (`X`, `I`) puts it behind the tiler. -/
theorem Tiled.pack {s : State} {old : Byte} (h : Tiled P ps N (s.i * s.w + s.x) s) (hi : s.i < s.rowh)
    (hx : s.x < s.w) (hold : s.buf.read (packAddr s.x s.i) = some old) {as : List PxAnswer} {c : Nat}
    (hsource : as = ((bandPixels s P).drop (s.i * s.w + s.x + 1)).map .px ++ ps)
    (hcount : c + ((bandPixels s P).drop (s.i * s.w + s.x + 1)).length = N) :
    Tiled P ps N (s.i * s.w + s.x + 1) { s with
      pxAns := as, npx := c
      buf := s.buf.write (packAddr s.x s.i) (packByte old s.i (pix s.w s.h P s.y s.x s.i)) } := by
  have hrowh : s.rowh ≤ 24 := h.rows ▸ rowhOf_le _
  refine ⟨h.image, h.rows, hsource, hcount, fun x' (hx' : x' < s.w) i' (hi' : i' < s.rowh) hlt => ?_⟩
  by_cases hsame : x' = s.x ∧ i' = s.i
  · obtain ⟨rfl, rfl⟩ := hsame
    exact pixelPacked_write_same _ _ _ _ _
  · have hbehind : i' * s.w + x' < s.i * s.w + s.x :=
      lt_of_le_of_ne (Nat.le_of_lt_succ hlt) fun heq => hsame (eq_of_rowMajor_eq hx hx' heq)
    exact (h.packed x' hx' i' hi' hbehind).write_other (by omega) (by omega) hsame hold _

/-- The ranges of `FILL` (R24, R26). -/
theorem Inv.fill_ranges {s : State} (hs : Inv s) (hp : s.phase = .fill) :
    ConversionRegs s ∧ s.y < s.h ∧ s.i < s.rowh ∧ s.x < s.w ∧ BandWritten s := by
  simpa only [PhaseRanges, hp] using hs.ranges

/-- `FILL` is over: Low mode replicates from the first column, High mode pads (R208). -/
def FillDone (s : State) : Prop := (s.res = 0 ∧ s.phase = .repl ∧ s.x = 0) ∨ (s.res ≠ 0 ∧ s.phase = .padout ∧ s.k = 0)

/-- The advance goes to the next pixel of the band in row-major order, or ends `FILL` after the last one (R206, R208). -/
theorem advancePixel_position {s : State} (hp : s.phase = .fill) :
    ((advancePixel s).phase = .fill ∧ (advancePixel s).i * s.w + (advancePixel s).x = s.i * s.w + s.x + 1) ∨
      (FillDone (advancePixel s) ∧ s.i * s.w + s.x + 1 = s.rowh * s.w) := by
  have hrow : s.x + 1 = s.w → s.i * s.w + s.x + 1 = (s.i + 1) * s.w := fun hlast => by
    rw [Nat.succ_mul, Nat.add_assoc, hlast]
  unfold advancePixel endFill
  split_ifs with hlast hend hlow
  · exact .inr ⟨.inl ⟨hlow, rfl, rfl⟩, hend ▸ hrow hlast⟩
  · exact .inr ⟨.inr ⟨hlow, rfl, rfl⟩, hend ▸ hrow hlast⟩
  · exact .inl ⟨hp, (hrow hlast).symm⟩
  · exact .inl ⟨hp, rfl⟩

/-- One step of `FILL`: the next pixel is behind the tiler, which goes on or is done. -/
theorem Tiled.step {s : State} (h : Tiled P ps N (s.i * s.w + s.x) s) (hs : Inv s) (hr : s.rst = false)
    (hp : s.phase = .fill) :
    ∃ t, Machine.step s = .next t ∧ TilerMove s t ∧ Tiled P ps N (s.i * s.w + s.x + 1) t ∧
      ((t.phase = .fill ∧ t.i * s.w + t.x = s.i * s.w + s.x + 1) ∨
        (FillDone t ∧ s.i * s.w + s.x + 1 = s.rowh * s.w)) := by
  obtain ⟨hregs, -, hi, hx, hw⟩ := hs.fill_ranges hp
  have hlt := packAddr_lt hregs hi hx
  have hfit := lt_of_lt_of_le hlt (hregs.nbytes_le hs.config)
  obtain ⟨old, hold⟩ := Option.isSome_iff_exists.1 (hw _ hlt)
  obtain ⟨as, c, hfill, hsource, hcount⟩ := h.fillStep_eq hi hx
  have hpack := (pack_ok (s := { s with pxAns := as, npx := c }) (p := pix s.w s.h P s.y s.x s.i)).2
    ⟨hfit, old, hold, rfl⟩
  refine ⟨_, ?_, ?_, (h.pack hi hx hold hsource hcount).advancePixel, advancePixel_position hp⟩
  · rw [step_fill hr hp, hfill, packPixel, hpack]
  · exact TilerMove.advancePixel { s with pxAns := as, npx := c, buf := _ }

/-- Throughout `FILL`, in the band that began at `s`. -/
structure Filling (s : State) (P : List Bool) (ps : List PxAnswer) (N : Nat) (t : State) : Prop where
  inv : Inv t
  move : TilerMove s t
  phase : t.phase = .fill
  tiled : Tiled P ps N (t.i * t.w + t.x) t

/-- At the end of `FILL`, in the band that began at `s`. -/
structure Filled (s : State) (P : List Bool) (ps : List PxAnswer) (N : Nat) (t : State) : Prop where
  inv : Inv t
  move : TilerMove s t
  done : FillDone t
  tiled : Tiled P ps N (t.rowh * t.w) t

/-- A step of `FILL` ends it or leaves fewer pixels of the band to pack. -/
theorem Filling.step {s t : State} (hr : s.rst = false) (h : Filling s P ps N t) :
    ∃ u, Machine.step t = .next u ∧ (Filled s P ps N u ∨
      Filling s P ps N u ∧ u.rowh * u.w - (u.i * u.w + u.x) < t.rowh * t.w - (t.i * t.w + t.x)) := by
  obtain ⟨hinv, hmove, hp, htiled⟩ := h
  obtain ⟨u, hstep, hu, htiled', hnext⟩ := htiled.step hinv (hmove.rst.trans hr) hp
  have hinv' := stepKeepsTheInvariant t u hinv hstep
  refine ⟨u, hstep, ?_⟩
  obtain ⟨hp', hpos⟩ | ⟨hdone, hpos⟩ := hnext
  · right
    obtain ⟨-, -, hi, hx, -⟩ := hinv.fill_ranges hp
    have hlt := rowMajor_lt hx hi
    rw [hu.w, hu.rowh, hpos]
    refine ⟨⟨hinv', hmove.trans hu, hp', ?_⟩, by omega⟩
    rwa [hu.w, hpos]
  · left
    refine ⟨hinv', hmove.trans hu, hdone, ?_⟩
    rwa [hu.w, hu.rowh, ← hpos]

theorem Filling.leadsTo_filled {s t : State} (hr : s.rst = false) (h : Filling s P ps N t) :
    ∃ u, LeadsTo t u ∧ Filled s P ps N u :=
  LeadsTo.of_measure (fun u => u.rowh * u.w - (u.i * u.w + u.x)) (fun _ => Filling.step hr) h

/-! ## The bytes of the band -/

/-- Once every pixel is packed, each byte `PACK` touches is that of the closed form: three of a column in High mode, the
first of it in Low mode (R183, R184). -/
theorem Tiled.read_eq {s : State} (h : Tiled P ps N (s.rowh * s.w) s) {x k : Nat} (hx : x < s.w)
    (hk : k < 3) (hlow : s.res = 0 → k = 0) :
    s.buf.read (3 * x + k) = some (bandByte s.res s.w s.h P s.y (3 * x + k)) := by
  rw [bandByte_eq _ _ _ _ _ _ hk]
  refine read_of_pixelPacked fun j hj => ?_
  have hrowh := h.rows
  have hrow : (if s.res = 0 then j else 8 * k + j) = 8 * k + j ∧ 8 * k + j < s.rowh := by
    unfold rowhOf Config.rowhLow Config.rowhHigh at hrowh
    split_ifs at hrowh ⊢ with hres
    · have := hlow hres
      omega
    · omega
  rw [hrow.1]
  exact h.packed x hx _ hrow.2 (rowMajor_lt hx hrow.2)

/-- Every byte of the band that is the first of its column, or in a column behind `X`, is that of the closed form. -/
def ColumnsReplicated (P : List Bool) (s : State) : Prop :=
  ∀ m < 3 * s.w, m % 3 = 0 ∨ m < 3 * s.x → s.buf.read m = some (bandByte s.res s.w s.h P s.y m)

/-- Low mode has one byte for each column (R184). -/
theorem bandByte_low_congr (w h : Nat) (P : List Bool) (y : Nat) {m n : Nat} (hmn : m / 3 = n / 3) :
    bandByte 0 w h P y m = bandByte 0 w h P y n := by
  simp only [bandByte, hmn, if_true]

/-- Replicating column `X` puts it behind (R181). -/
theorem ColumnsReplicated.replicate {s u : State} (h : ColumnsReplicated P s) (hlow : s.res = 0) (hx : s.x < s.w)
    (hu : replicate s.x s = .ok u) : ColumnsReplicated P { u with x := s.x + 1 } := by
  obtain ⟨-, v, hv, rfl⟩ := replicate_ok.1 hu
  intro m (hm : m < 3 * s.w) (hcol : m % 3 = 0 ∨ m < 3 * (s.x + 1))
  have hfirst := h (3 * s.x) (by omega) (.inl (by omega))
  show ((s.buf.write (3 * s.x + 1) v).write (3 * s.x + 2) v).read m = some (bandByte s.res s.w s.h P s.y m)
  by_cases hcopy : m = 3 * s.x + 1 ∨ m = 3 * s.x + 2
  · have hcolumn : m / 3 = 3 * s.x / 3 := by omega
    rw [hlow, bandByte_low_congr _ _ _ _ hcolumn, ← hlow, ← hfirst, hv, Memory.read_write, Memory.read_write]
    obtain rfl | rfl := hcopy <;> simp
  · rw [Memory.read_write_other _ _ (by omega), Memory.read_write_other _ _ (by omega)]
    exact h m hm (by omega)

/-- Throughout `REPL`, in the band that began at `s`. -/
structure Replicating (s : State) (P : List Bool) (ps : List PxAnswer) (N : Nat) (t : State) : Prop where
  inv : Inv t
  move : TilerMove s t
  phase : t.phase = .repl
  source : t.pxAns = ps
  count : t.npx = N
  columns : ColumnsReplicated P t

/-- The band that began at `s` is whole, and its emission begins. -/
structure BandDone (s : State) (P : List Bool) (ps : List PxAnswer) (N : Nat) (t : State) : Prop where
  move : TilerMove s t
  phase : t.phase = .padout
  k : t.k = 0
  source : t.pxAns = ps
  count : t.npx = N
  bytes : ∀ m < 3 * t.w, t.buf.read m = some (bandByte t.res t.w t.h P t.y m)

/-- A step of `REPL` completes the band or leaves fewer columns to replicate. -/
theorem Replicating.step {s t : State} (hr : s.rst = false) (h : Replicating s P ps N t) :
    ∃ u, Machine.step t = .next u ∧ (BandDone s P ps N u ∨ Replicating s P ps N u ∧ u.w - u.x < t.w - t.x) := by
  obtain ⟨hinv, hmove, hp, hsource, hcount, hcols⟩ := h
  have hR := hinv.ranges
  simp only [PhaseRanges, hp] at hR
  obtain ⟨hregs, hlow, -, hx, hw⟩ := hR
  have hband := hregs.nbytes_le hinv.config
  have hn := hregs.nbytes
  obtain ⟨v, hv⟩ := Option.isSome_iff_exists.1 (hw (3 * t.x) (by omega))
  obtain ⟨u, hu⟩ : ∃ u, replicate t.x t = .ok u := ⟨_, replicate_ok.2 ⟨by omega, v, hv, rfl⟩⟩
  have hstep : Machine.step t = .next (advanceColumn u) := by rw [step_repl (hmove.rst.trans hr) hp, replStep, hu]
  have hinv' := stepKeepsTheInvariant t _ hinv hstep
  have hmove' := hmove.trans (TilerMove.replicatedColumn hu)
  have hcols' := hcols.replicate hlow hx hu
  obtain ⟨-, _, -, rfl⟩ := replicate_ok.1 hu
  refine ⟨_, hstep, ?_⟩
  unfold advanceColumn at hinv' hmove' ⊢
  split_ifs at hinv' hmove' ⊢ with hlast
  · left
    refine ⟨hmove', rfl, rfl, hsource, hcount, fun m hm => hcols' m hm (.inr ?_)⟩
    exact hlast ▸ hm
  · right
    refine ⟨⟨hinv', hmove', hp, hsource, hcount, hcols'⟩, ?_⟩
    show t.w - (t.x + 1) < t.w - t.x
    omega

/-- From the end of `FILL` the band becomes whole: at once in High mode, by replication in Low mode. -/
theorem Filled.leadsTo_bandDone {s t : State} (hr : s.rst = false) (h : Filled s P ps N t) :
    ∃ u, LeadsTo t u ∧ BandDone s P ps N u := by
  obtain ⟨hinv, hmove, hdone, htiled⟩ := h
  have hnone : (bandPixels t P).drop (t.rowh * t.w) = [] :=
    bandPixels_drop_clear htiled.image (Nat.min_le_left t.rowh _) 0
  have hsource : t.pxAns = ps := by rw [htiled.source, hnone, List.map_nil, List.nil_append]
  have hcount : t.npx = N := by simpa only [hnone, List.length_nil, Nat.add_zero] using htiled.count
  obtain ⟨hlow, hp, hx⟩ | ⟨hhigh, hp, hk⟩ := hdone
  · refine LeadsTo.of_measure (fun u => u.w - u.x) (fun _ => Replicating.step hr)
      ⟨hinv, hmove, hp, hsource, hcount, fun m hm hcol => ?_⟩
    have hm3 : m = 3 * (m / 3) + 0 := by omega
    rw [hm3]
    exact htiled.read_eq (by omega) (by decide) fun _ => rfl
  · refine ⟨t, .refl t, hmove, hp, hk, hsource, hcount, fun m hm => ?_⟩
    rw [← Nat.div_add_mod m 3]
    exact htiled.read_eq (by omega) (Nat.mod_lt _ (by decide)) fun hlow => absurd hlow hhigh

/-- Settles O29: `FILL` packs the band pixel by pixel in row-major order, and what it leaves is the closed form, in Low mode
after the replication of each column. -/
theorem bandBytesAreTheClosedForm : Obligations.BandBytesAreTheClosedForm := by
  intro s P ps hs hr hp hi hx hP hsource
  obtain ⟨hregs, -⟩ := hs.fill_ranges hp
  have hstart : Filling s P ps (s.npx + realRows s * s.w) s := by
    refine ⟨hs, rfl, hp, ?_⟩
    rw [hi, hx, Nat.zero_mul]
    refine ⟨hP, hregs.rowh, hsource, ?_, fun _ _ _ _ hlt => absurd hlt (Nat.not_lt_zero _)⟩
    rw [List.drop_zero, bandPixels_length hP]
  obtain ⟨t, hst, hfilled⟩ := hstart.leadsTo_filled hr
  obtain ⟨u, htu, hdone⟩ := hfilled.leadsTo_bandDone hr
  obtain ⟨n, hn⟩ := hst.trans htu
  obtain ⟨hmove, hp', hk, hpx, hcount, hbytes⟩ := hdone
  refine ⟨n, u, hn, hp', hk, hmove.y, hpx, hcount, hmove.out, hmove.ch, hmove.errcode, ?_⟩
  rwa [hmove.w, hmove.res, hmove.h, hmove.y] at hbytes

end Sys2Proof.Machine
end

section
/-! SUPPORT. The accounting of emitted bytes and consumed pixels (R220, R67), step by step. -/

namespace Sys2Proof.Machine

/-! ## Pixels -/

/-- The advance after a pixel keeps the accounting, once that pixel is counted in a real sub-row (R206, R208). -/
theorem advancePixel_accounting {s : State} (hp : s.phase = .fill) (ho : s.out.length = sentBefore s)
    (hn : s.npx = min (s.y + s.i) s.h * s.w + if s.y + s.i < s.h then s.x + 1 else 0) :
    Accounting (advancePixel s) := by
  have hrow : s.x + 1 = s.w → s.npx = min (s.y + (s.i + 1)) s.h * s.w := fun hlast => by
    rw [hn]
    split
    · next hreal =>
      have hnext : s.y + (s.i + 1) = s.y + s.i + 1 := rfl
      rw [Nat.min_eq_left hreal.le, hnext, Nat.min_eq_left hreal, hlast, ← Nat.succ_mul]
    · next hclear =>
      rw [Nat.min_eq_right (by omega), Nat.min_eq_right (by omega), Nat.add_zero]
  unfold advancePixel endFill
  split_ifs with hlast hend hlow
  · exact ⟨ho, hend ▸ hrow hlast⟩
  · exact ⟨ho, hend ▸ hrow hlast⟩
  · simp only [Accounting, hp, ite_self, Nat.add_zero]
    exact ⟨ho, hrow hlast⟩
  · simp only [Accounting, hp]
    exact ⟨ho, hn⟩

/-- Packing a pixel and advancing keeps the accounting, once that pixel is counted in a real sub-row (R206). -/
theorem packedPixel_accounting {s u : State} {x i : Nat} {p : Bool} (hu : pack x i p s = .ok u) (hp : s.phase = .fill)
    (ho : s.out.length = sentBefore s)
    (hn : s.npx = min (s.y + s.i) s.h * s.w + if s.y + s.i < s.h then s.x + 1 else 0) :
    Accounting (advancePixel u) := by
  obtain ⟨-, -, -, rfl⟩ := pack_ok.1 hu
  exact advancePixel_accounting hp ho hn

/-- Replicating a column and advancing keeps the accounting (R210). -/
theorem replicatedColumn_accounting {s u : State} {x : Nat} (hu : replicate x s = .ok u) (hp : s.phase = .repl)
    (ha : Accounting s) : Accounting (advanceColumn u) := by
  obtain ⟨-, -, -, rfl⟩ := replicate_ok.1 hu
  simp only [Accounting, hp] at ha
  unfold advanceColumn
  split
  · exact ha
  · simp only [Accounting, hp]
    exact ha

/-! ## Bytes -/

/-- The next band has one unit more before it (R220). -/
theorem sentBefore_nextBand {s : State} (hpos : 0 < s.rowh) :
    sentBefore { s with y := s.y + s.rowh } = sentBefore s + unitLength s := by
  show 3 + (s.y + s.rowh) / s.rowh * unitLength s = 3 + s.y / s.rowh * unitLength s + unitLength s
  rw [Nat.add_div_right _ hpos, Nat.succ_mul, Nat.add_assoc]

/-- A band starts with no pixel of its own counted (R205, R215). -/
theorem startBand_accounting {s : State} (ho : s.out.length = sentBefore s) (hn : s.npx = min s.y s.h * s.w) :
    Accounting (startBand s) :=
  ⟨ho, by simpa using hn⟩

/-- The band loop keeps the accounting once the band's whole unit is emitted (R214, R215). -/
theorem advanceBand_accounting {s : State} (hpos : 0 < s.rowh) (ho : s.out.length = sentBefore s + unitLength s)
    (hn : s.npx = min (s.y + s.rowh) s.h * s.w) : Accounting (advanceBand s) := by
  rw [← sentBefore_nextBand hpos] at ho
  unfold advanceBand
  split
  · exact startBand_accounting ho hn
  · next hlast =>
    rw [Nat.min_eq_right (Nat.le_of_not_lt hlast)] at hn
    exact ⟨ho, hn⟩

/-- A written byte keeps the accounting, in every phase: `K` counts it, or the phase it ends takes over (R205, R209 to
R216). -/
theorem afterSend_accounting {s : State} {b : Byte} (as : List ChAnswer) (hb : emitted s = some b) (hR : PhaseRanges s)
    (ha : Accounting s) :
    Accounting (afterSend { s with chAns := as, out := s.out ++ [b], ch := s.ch ++ [b] }) := by
  have count : ∀ {n : Nat}, s.out.length = n → (s.out ++ [b]).length = n + 1 := fun h => by simp [h]
  have countLast : ∀ {m n : Nat}, s.out.length = m + s.k → s.k + 1 = n → (s.out ++ [b]).length = m + n :=
    fun h hk => by rw [count h, Nat.add_assoc, hk]
  cases hp : s.phase with
  | idle | check | fill | repl | done | err => simp [emitted, hp] at hb
  | setup =>
    simp only [Accounting, hp] at ha
    simp only [PhaseRanges, hp] at hR
    obtain ⟨ho, hn⟩ := ha
    obtain ⟨-, hy, -⟩ := hR
    simp only [afterSend, afterByte]
    split
    · next hlast =>
      have hfirst : sentBefore s = 3 := by rw [sentBefore, hy, Nat.zero_div, Nat.zero_mul]
      exact startBand_accounting ((count ho).trans (hlast.trans hfirst.symm)) (by simp [hn, hy])
    · exact ⟨count ho, hn⟩
  | padout =>
    simp only [Accounting, hp] at ha
    obtain ⟨ho, hn⟩ := ha
    exact ⟨count ho, hn⟩
  | hdr =>
    simp only [Accounting, hp] at ha
    obtain ⟨ho, hn⟩ := ha
    simp only [afterSend, afterByte]
    split
    · next hlast => exact ⟨(countLast ho hlast :), hn⟩
    · exact ⟨count ho, hn⟩
  | data =>
    simp only [Accounting, hp] at ha
    obtain ⟨ho, hn⟩ := ha
    simp only [afterSend, advanceData]
    split
    · next hlast => exact ⟨(countLast ho hlast :), hn⟩
    · exact ⟨count ho, hn⟩
  | trail =>
    simp only [Accounting, hp] at ha
    simp only [PhaseRanges, hp] at hR
    obtain ⟨ho, hn⟩ := ha
    obtain ⟨hr, -⟩ := hR
    simp only [afterSend, afterByte]
    split
    · next hlast =>
      refine advanceBand_accounting (hr.rowh ▸ rowhOf_pos _) ((countLast ho hlast).trans ?_) hn
      simp only [sentBefore, unitLength, Nat.add_assoc]
    · exact ⟨count ho, hn⟩
  | restore =>
    simp only [Accounting, hp] at ha
    obtain ⟨ho, hn⟩ := ha
    simp only [afterSend, afterByte]
    split
    · trivial
    · exact ⟨count ho, hn⟩
  | frame =>
    simp only [Accounting, hp] at ha
    obtain ⟨ho, hn⟩ := ha
    simp only [afterSend, afterByte]
    split
    · trivial
    · exact ⟨count ho, hn⟩

/-! ## The step -/

/-- Every step from a state in range keeps the accounting. -/
theorem step_keeps_accounting {s t : State} (hR : PhaseRanges s) (ha : Accounting s) (h : step s = .next t) :
    Accounting t := by
  cases step_cases h with
  | reset | headerRaises | pixelRaises | sendFails => trivial
  | waits => exact ha
  | acceptEncode | acceptFrame => exact ⟨rfl, rfl⟩
  | headerPasses _ hp =>
    simp only [Accounting, hp] at ha
    exact ha
  | pixel _ hp hy _ hu =>
    simp only [Accounting, hp, if_pos hy] at ha
    obtain ⟨ho, hn⟩ := ha
    refine packedPixel_accounting hu hp ho ?_
    simp only [if_pos hy]
    rw [hn, Nat.add_assoc]
  | clearPixel _ hp hy hu =>
    simp only [Accounting, hp, if_neg (Nat.not_lt.2 hy)] at ha
    obtain ⟨ho, hn⟩ := ha
    exact packedPixel_accounting hu hp ho (by rw [hn, if_neg (Nat.not_lt.2 hy)])
  | replicates _ hp hu => exact replicatedColumn_accounting hu hp ha
  | paddingDone _ hp hk =>
    simp only [Accounting, hp] at ha
    simp only [PhaseRanges, hp] at hR
    obtain ⟨-, -, hle, -⟩ := hR
    rwa [Nat.le_antisymm hle hk] at ha
  | sent _ hb => exact afterSend_accounting _ hb hR ha

/-- Settles O54: the counts of every phase are those of the phase before it and of what the step sent or took. -/
theorem stepKeepsTheAccounting : Obligations.StepKeepsTheAccounting := fun _ _ hs ha h =>
  step_keeps_accounting hs.ranges ha h

end Sys2Proof.Machine
end

section
/-! SUPPORT. The closed form of the stream (R219) cut at its bands: its length (R220), and what stands at each place. -/

namespace Sys2Proof.Machine

section

variable (c : Config) (res just : Byte) (w h : Nat) (P : List Bool)

/-- The stream before band `b` (R219): `LSP` and the units of the bands before it. -/
def streamBefore (b : Nat) : List Byte :=
  lspBytes c (pitchOf c res) ++ (List.range b).flatMap (bandUnit c res just w h P)

theorem bandBytesOf_length (y : Nat) : (bandBytesOf res w h P y).length = 3 * w := by simp [bandBytesOf]

theorem bandUnit_length (b : Nat) :
    (bandUnit c res just w h P b).length = jcalc c just (idw c res w) + 5 + 3 * w + 2 := by
  simp [bandUnit, bandBytesOf_length, Nat.add_assoc]

theorem streamBefore_succ (b : Nat) :
    streamBefore c res just w h P (b + 1) = streamBefore c res just w h P b ++ bandUnit c res just w h P b := by
  simp [streamBefore, List.range_succ]

theorem streamBefore_length (b : Nat) :
    (streamBefore c res just w h P b).length = 3 + b * (jcalc c just (idw c res w) + 5 + 3 * w + 2) := by
  induction b with
  | zero => simp [streamBefore]
  | succ b ih => rw [streamBefore_succ, List.length_append, ih, bandUnit_length, Nat.add_assoc, Nat.succ_mul b]

theorem conversionStream_eq :
    conversionStream c res just w h P = streamBefore c res just w h P (bandCount res h) ++ lspdBytes c := rfl

/-- Settles O57: `LSP`, as many units of one length as there are bands, `LSPD`. -/
theorem conversionStreamLength : Obligations.ConversionStreamLength := by
  intro c res just w h P
  rw [conversionStream_eq, List.length_append, streamBefore_length]
  rfl

theorem streamBefore_prefix {a b : Nat} (hab : a ≤ b) :
    streamBefore c res just w h P a <+: streamBefore c res just w h P b := by
  induction b, hab using Nat.le_induction with
  | base => exact List.prefix_rfl
  | succ b _ ih => exact ih.trans (streamBefore_succ c res just w h P b ▸ List.prefix_append _ _)

/-- The stream goes on with the unit of band `b` after the bands before it. -/
theorem streamBefore_bandUnit_prefix {b : Nat} (hb : b < bandCount res h) :
    streamBefore c res just w h P b ++ bandUnit c res just w h P b <+: conversionStream c res just w h P := by
  rw [← streamBefore_succ, conversionStream_eq]
  exact (streamBefore_prefix c res just w h P hb).trans (List.prefix_append _ _)

end

/-- A band that starts above `H` is one of the bands (R172). -/
theorem lt_bandCount {res : Byte} {h b : Nat} (hb : b * rowhOf res < h) : b < bandCount res h := by
  rw [bandCount, Nat.lt_iff_add_one_le, Nat.le_div_iff_mul_le (rowhOf_pos res), Nat.succ_mul]
  omega

/-- A multiple of `ROWH` that reaches `H` by less than `ROWH` is the end of the last band (R172, R215). -/
theorem eq_bandCount {res : Byte} {h b : Nat} (hlo : h ≤ b * rowhOf res) (hhi : b * rowhOf res ≤ h + rowhOf res - 1) :
    bandCount res h = b := by
  have hpos := rowhOf_pos res
  rw [bandCount, Nat.div_eq_iff hpos]
  omega

/-! ## Places of a list -/

/-- The elements of a part of a list stand after those before the part. -/
theorem getElem?_of_part {α : Type} {pre part l : List α} {k : Nat} {a : α} (h : pre ++ part <+: l)
    (ha : part[k]? = some a) : l[pre.length + k]? = some a := by
  have hk : k < part.length := (List.getElem?_eq_some_iff.1 ha).1
  obtain ⟨r, rfl⟩ := h
  rw [List.append_assoc, List.getElem?_append_right (Nat.le_add_right _ _), Nat.add_sub_cancel_left,
    List.getElem?_append_left hk, ha]

/-- The start of a list goes on with the element that stands at its end. -/
theorem prefix_concat {α : Type} {l m : List α} {a : α} (h : l <+: m) (ha : m[l.length]? = some a) :
    l ++ [a] <+: m := by
  have hnext : l ++ [a] = m.take (l.length + 1) := by
    rw [List.take_add_one, ha, ← List.prefix_iff_eq_take.1 h]
    rfl
  exact hnext ▸ List.take_prefix _ _

end Sys2Proof.Machine
end

section
/-! SUPPORT. A conversion between its steps: its ranges, its accounting, what the band holds, and that what it has emitted
is the start of the closed form (R219). Whatever the source and the channel answer, every step keeps it (R222). -/

namespace Sys2Proof.Machine

/-! ## The byte of the present step -/

/-- The phases of a conversion after its checks (R26). -/
def Phase.converting : Phase → Bool
  | .setup | .fill | .repl | .padout | .hdr | .data | .trail | .restore => true
  | .idle | .check | .frame | .done | .err => false

/-- The closed form of the conversion that runs, for the pixels `P` (R219). -/
def streamOf (s : State) (P : List Bool) : List Byte := conversionStream s.cfg s.res s.just s.w s.h P

/-- The first `n` pixels of the band, in row-major order, stand in `BUF`. -/
def PackedBelow (P : List Bool) (n : Nat) (s : State) : Prop :=
  ∀ x < s.w, ∀ i < s.rowh, i * s.w + x < n → PixelPacked s.buf x i (pix s.w s.h P s.y x i)

/-- `BUF` holds the closed form of the band (R184). -/
def BandComplete (P : List Bool) (s : State) : Prop :=
  ∀ m < 3 * s.w, s.buf.read m = some (bandByte s.res s.w s.h P s.y m)

/-- What `BUF` holds of the present band, in the phases that will read it. -/
def BandHolds (P : List Bool) (s : State) : Prop :=
  match s.phase with
  | .fill => PackedBelow P (s.i * s.w + s.x) s
  | .repl => ColumnsReplicated P s
  | .padout | .hdr | .data => BandComplete P s
  | .idle | .check | .setup | .trail | .restore | .frame | .done | .err => True

section

variable {s : State} {P : List Bool}

/-- What R220 counts before the band is the stream before it. -/
theorem sentBefore_eq_length (P : List Bool) (hr : ConversionRegs s) :
    sentBefore s = (streamBefore s.cfg s.res s.just s.w s.h P (s.y / s.rowh)).length := by
  rw [streamBefore_length, sentBefore, unitLength, hr.pad, hr.cols, hr.nbytes]

/-- The number of the band times `ROWH` is where it starts (R24). -/
theorem ConversionRegs.band_start (hr : ConversionRegs s) : s.y / s.rowh * rowhOf s.res = s.y := by
  rw [← hr.rowh, Nat.div_mul_cancel hr.band]

/-- Once `Y` has passed the last band, its number is that of the bands (R172, R215). -/
theorem ConversionRegs.bandCount_eq (hr : ConversionRegs s) (hlo : s.h ≤ s.y) (hhi : s.y ≤ s.h + s.rowh - 1) :
    bandCount s.res s.h = s.y / s.rowh := by
  rw [hr.rowh] at hhi
  exact eq_bandCount (hr.band_start.symm ▸ hlo) (hr.band_start.symm ▸ hhi)

/-- The unit of the present band, by the registers (R219, R23). -/
theorem ConversionRegs.bandUnit_eq (hr : ConversionRegs s) (P : List Bool) :
    bandUnit s.cfg s.res s.just s.w s.h P (s.y / s.rowh) =
      List.replicate s.pad s.cfg.sp ++ bimgHeader s.cfg s.dens (BitVec.ofNat 16 s.cols) ++
        bandBytesOf s.res s.w s.h P s.y ++ trailerBytes s.cfg := by
  rw [bandUnit, hr.band_start, hr.pad, hr.cols, hr.dens]

/-- A byte of a part of the band's unit stands in the stream after what is before that part. -/
theorem streamOf_getElem?_of_part {l part r : List Byte} {k : Nat} {b : Byte} (hr : ConversionRegs s) (hy : s.y < s.h)
    (hu : bandUnit s.cfg s.res s.just s.w s.h P (s.y / s.rowh) = l ++ part ++ r) (hb : part[k]? = some b) :
    (streamOf s P)[sentBefore s + l.length + k]? = some b := by
  have hunit := streamBefore_bandUnit_prefix s.cfg s.res s.just s.w s.h P
    (lt_bandCount (hr.band_start.symm ▸ hy : s.y / s.rowh * rowhOf s.res < s.h))
  rw [hu, ← List.append_assoc, ← List.append_assoc] at hunit
  rw [sentBefore_eq_length P hr, ← List.length_append]
  exact getElem?_of_part ((List.prefix_append _ _).trans hunit) hb

/-- The byte a conversion writes is the one that stands in the closed form at the length of what it has emitted. -/
theorem streamOf_getElem?_of_emitted {b : Byte} (hp : s.phase.converting = true) (hR : PhaseRanges s)
    (ha : Accounting s) (hband : BandHolds P s) (hb : emitted s = some b) : (streamOf s P)[s.out.length]? = some b := by
  cases hphase : s.phase with
  | idle | check | frame | done | err => simp [hphase, Phase.converting] at hp
  | fill | repl => simp [emitted, hphase] at hb
  | setup =>
    simp only [PhaseRanges, Accounting, emitted, hphase] at hR ha hb
    obtain ⟨hr, -⟩ := hR
    have hpre : [] ++ lspBytes s.cfg s.pitch <+: streamOf s P := by
      rw [hr.pitch, streamOf, conversionStream, List.append_assoc]
      exact List.prefix_append _ _
    simpa [ha] using getElem?_of_part hpre hb
  | padout =>
    have hk := lt_pad_of_emitted hphase hb
    simp only [PhaseRanges, Accounting, emitted, hphase, if_pos hk] at hR ha hb
    obtain ⟨hr, hy, -⟩ := hR
    have hpart : (List.replicate s.pad s.cfg.sp)[s.k]? = some b := by rw [List.getElem?_replicate_of_lt hk, hb]
    rw [ha.1]
    have hunit := (hr.bandUnit_eq P).trans (List.append_assoc _ _ _)
    rw [List.append_assoc] at hunit
    exact streamOf_getElem?_of_part (l := []) hr hy hunit hpart
  | hdr =>
    simp only [PhaseRanges, Accounting, emitted, hphase] at hR ha hb
    obtain ⟨hr, hy, -⟩ := hR
    have hat := streamOf_getElem?_of_part hr hy ((hr.bandUnit_eq P).trans (List.append_assoc _ _ _)) hb
    simpa [ha] using hat
  | data => 
    simp only [PhaseRanges, BandHolds, Accounting, emitted, hphase] at hR hband ha hb
    obtain ⟨hr, hy, hk, -⟩ := hR
    split at hb
    · obtain ⟨-, hread⟩ := readRun_getElem hb
      obtain ⟨-, hread⟩ := memRead_ok.1 hread
      have hk3 : s.k < 3 * s.w := hr.nbytes ▸ hk
      rw [Nat.zero_add, hband s.k hk3] at hread
      have hpart : (bandBytesOf s.res s.w s.h P s.y)[s.k]? = some b := by simp [bandBytesOf, hk3, hread]
      have hat := streamOf_getElem?_of_part hr hy (hr.bandUnit_eq P) hpart
      simpa [ha, Nat.add_assoc] using hat
    · cases hb
  | trail =>
    simp only [PhaseRanges, Accounting, emitted, hphase] at hR ha hb
    obtain ⟨hr, hy, -⟩ := hR
    have hat := streamOf_getElem?_of_part hr hy ((hr.bandUnit_eq P).trans (List.append_nil _).symm) hb
    simpa [ha, bandBytesOf_length, hr.nbytes, Nat.add_assoc] using hat
  | restore =>
    simp only [PhaseRanges, Accounting, emitted, hphase] at hR ha hb
    obtain ⟨hr, hlo, hhi, -⟩ := hR
    rw [ha.1, sentBefore_eq_length P hr, ← hr.bandCount_eq hlo hhi]
    exact getElem?_of_part (conversionStream_eq _ _ _ _ _ _ ▸ List.prefix_rfl) hb

/-! ## The band -/

/-- The pixels behind `n` are those of a tiler whose source still has the others of the band. -/
theorem PackedBelow.tiled {n : Nat} (h : PackedBelow P n s) (himage : P.length = s.w * s.h)
    (hrows : s.rowh = rowhOf s.res) :
    Tiled P [] ((bandPixels s P).drop n).length n { s with pxAns := ((bandPixels s P).drop n).map .px, npx := 0 } :=
  ⟨himage, hrows, (List.append_nil _).symm, Nat.zero_add _, h⟩

/-- The pixel of R175, packed at (`X`, `I`), is behind the tiler (R206). -/
theorem PackedBelow.pack {u : State} (h : PackedBelow P (s.i * s.w + s.x) s) (himage : P.length = s.w * s.h)
    (hrows : s.rowh = rowhOf s.res) (hi : s.i < s.rowh) (hx : s.x < s.w)
    (hu : pack s.x s.i (pix s.w s.h P s.y s.x s.i) s = .ok u) : PackedBelow P (u.i * u.w + u.x + 1) u := by
  obtain ⟨-, old, hold, rfl⟩ := pack_ok.1 hu
  have ht := Tiled.pack (s := { s with pxAns := _, npx := 0 }) (h.tiled himage hrows) hi hx hold
    (List.append_nil _).symm (Nat.sub_add_cancel (List.drop_sublist_drop_left _ (Nat.le_succ _)).length_le)
  exact ht.packed

/-- A whole band of packed pixels is its closed form, in the bytes `PACK` touches (R183, R184). -/
theorem PackedBelow.read_eq (h : PackedBelow P (s.rowh * s.w) s) (himage : P.length = s.w * s.h)
    (hrows : s.rowh = rowhOf s.res) {x k : Nat} (hx : x < s.w) (hk : k < 3) (hlow : s.res = 0 → k = 0) :
    s.buf.read (3 * x + k) = some (bandByte s.res s.w s.h P s.y (3 * x + k)) := by
  have ht := Tiled.read_eq (s := { s with pxAns := _, npx := 0 }) (h.tiled himage hrows) hx hk hlow
  exact ht

theorem PackedBelow.advancePixel {n : Nat} (h : PackedBelow P n s) : PackedBelow P n (advancePixel s) := by
  unfold Machine.advancePixel endFill
  split_ifs <;> exact h

/-- The advance after a pixel goes on packing, or leaves the band for `REPL` or for its emission (R206, R208). -/
theorem PackedBelow.bandHolds_advancePixel (h : PackedBelow P (s.i * s.w + s.x + 1) s) (hp : s.phase = .fill)
    (himage : P.length = s.w * s.h) (hrows : s.rowh = rowhOf s.res) : BandHolds P (Machine.advancePixel s) := by
  have hm := TilerMove.advancePixel s
  have h' := h.advancePixel
  have himage' : P.length = (Machine.advancePixel s).w * (Machine.advancePixel s).h := by rw [hm.w, hm.h, himage]
  have hrows' : (Machine.advancePixel s).rowh = rowhOf (Machine.advancePixel s).res := by rw [hm.rowh, hm.res, hrows]
  obtain ⟨hfill, hpos⟩ | ⟨hdone, hpos⟩ := advancePixel_position hp
  · simp only [BandHolds, hfill]
    rwa [hm.w, hpos]
  · rw [hpos, ← hm.rowh, ← hm.w] at h'
    obtain ⟨-, hrepl, hx⟩ | ⟨hhigh, hpad, -⟩ := hdone
    · simp only [BandHolds, hrepl]
      intro m hlt hcol
      have hm3 : m = 3 * (m / 3) + 0 := by omega
      rw [hm3]
      exact h'.read_eq himage' hrows' (by omega) (by decide) fun _ => rfl
    · simp only [BandHolds, hpad]
      intro m hlt
      rw [← Nat.div_add_mod m 3]
      exact h'.read_eq himage' hrows' (by omega) (Nat.mod_lt _ (by decide)) fun hlow => absurd hlow hhigh

/-- Replicating column `X` keeps the bytes of the columns behind it, and the last one completes the band (R210). -/
theorem ColumnsReplicated.bandHolds_advanceColumn {u : State} (h : ColumnsReplicated P s) (hp : s.phase = .repl)
    (hlow : s.res = 0) (hx : s.x < s.w) (hu : Machine.replicate s.x s = .ok u) : BandHolds P (advanceColumn u) := by
  have hcols := h.replicate hlow hx hu
  obtain ⟨-, _, -, rfl⟩ := replicate_ok.1 hu
  unfold advanceColumn
  split_ifs with hlast
  · exact fun m hm => hcols m hm (.inr (hlast ▸ hm))
  · simp only [BandHolds, hp]
    exact hcols

/-- A band starts with no pixel packed (R205, R215). -/
theorem bandHolds_startBand (s : State) (P : List Bool) : BandHolds P (startBand s) :=
  fun x _ i _ hlt => absurd hlt (by simp)

theorem bandHolds_advanceBand (s : State) (P : List Bool) : BandHolds P (advanceBand s) := by
  unfold advanceBand
  split
  · exact bandHolds_startBand _ P
  · trivial

/-- The band's bytes stay while they are emitted (R209 to R213). -/
theorem bandHolds_afterSend (h : BandHolds P s) : BandHolds P (afterSend s) := by
  cases hp : s.phase with
  | idle | check | fill | repl | done | err => simpa only [afterSend, hp] using h
  | setup =>
    simp only [afterSend, hp, afterByte]
    split
    · exact bandHolds_startBand _ P
    · trivial
  | padout =>
    simp only [BandHolds, hp] at h
    simp only [afterSend, hp]
    exact h
  | hdr =>
    simp only [BandHolds, hp] at h
    simp only [afterSend, hp, afterByte]
    split <;> exact h
  | data =>
    simp only [BandHolds, hp] at h
    simp only [afterSend, hp, advanceData]
    split
    · trivial
    · exact h
  | trail =>
    simp only [afterSend, hp, afterByte]
    split
    · exact bandHolds_advanceBand _ P
    · trivial
  | restore | frame =>
    simp only [afterSend, hp, afterByte]
    split <;> trivial

/-! ## What is seen of a step -/

/-- What follows a written byte is seen in `PHASE` only. -/
theorem afterSend_observe (s : State) : (afterSend s).observe = { s.observe with phase := (afterSend s).phase } := by
  unfold afterSend afterByte advanceData advanceBand
  repeat' split
  all_goals rfl

/-- Packing a pixel and advancing is seen in `PHASE` only. -/
theorem packedPixel_observe {u : State} {x i : Nat} {p : Bool} (hu : Machine.pack x i p s = .ok u) :
    (advancePixel u).observe = { s.observe with phase := (advancePixel u).phase } := by
  obtain ⟨-, -, -, rfl⟩ := pack_ok.1 hu
  unfold advancePixel endFill
  split_ifs <;> rfl

/-- Replicating a column and advancing is seen in `PHASE` only. -/
theorem replicatedColumn_observe {u : State} {x : Nat} (hu : Machine.replicate x s = .ok u) :
    (advanceColumn u).observe = { s.observe with phase := (advanceColumn u).phase } := by
  obtain ⟨-, -, -, rfl⟩ := replicate_ok.1 hu
  unfold advanceColumn
  split <;> rfl

/-- A step of a running operation leaves the reset wire and the request lines alone. -/
theorem step_busy_inputs {t : State} (hr : s.rst = false) (hb : s.busy = true) (h : step s = .next t) :
    t.rst = s.rst ∧ t.reqs = s.reqs := by
  cases step_cases h with
  | reset hrst => simp [hr] at hrst
  | acceptEncode _ hq | acceptFrame _ hq => simp [hb] at hq
  | waits | headerRaises | headerPasses | pixelRaises | paddingDone | sendFails => exact ⟨rfl, rfl⟩
  | pixel _ _ _ _ hu | clearPixel _ _ _ hu =>
    have ho := packedPixel_observe hu
    exact ⟨congrArg Observed.rst ho, congrArg Observed.reqs ho⟩
  | replicates _ _ hu =>
    have ho := replicatedColumn_observe hu
    exact ⟨congrArg Observed.rst ho, congrArg Observed.reqs ho⟩
  | @sent b as =>
    have ho := afterSend_observe { s with chAns := as, out := s.out ++ [b], ch := s.ch ++ [b] }
    exact ⟨congrArg Observed.rst ho, congrArg Observed.reqs ho⟩

/-! ## A conversion between its steps -/

/-- The answers `as` of the source give the pixels of `P` from its `n`-th on, as far as they give pixels. -/
def PixelsAgree (P : List Bool) (n : Nat) (as : List PxAnswer) : Prop :=
  ∀ m b, n + m < P.length → as[m]? = some (.px b) → P[n + m]? = some b

theorem PixelsAgree.tail {n : Nat} {a : PxAnswer} {as : List PxAnswer} (h : PixelsAgree P n (a :: as)) :
    PixelsAgree P (n + 1) as := fun m b hlt hm => by
  have hnext : n + 1 + m = n + (m + 1) := by omega
  rw [hnext] at hlt ⊢
  exact h (m + 1) b hlt hm

/-- A conversion of the pixels `P` after its checks, between two steps. -/
structure Converting (P : List Bool) (s : State) : Prop where
  phase : s.phase.converting = true
  config : s.cfg.wf = true
  ranges : PhaseRanges s
  accounting : Accounting s
  band : BandHolds P s
  image : P.length = s.w * s.h
  source : PixelsAgree P s.npx s.pxAns
  stream : s.out <+: streamOf s P

/-- A conversion of the pixels `P` that is over: in success the whole stream is emitted and every pixel taken. -/
def ConversionEnded (P : List Bool) (s : State) : Prop :=
  s.phase = .done ∧ s.out = streamOf s P ∧ s.npx = P.length ∨ s.phase = .err ∧ s.out <+: streamOf s P

theorem quiescent_of_converting {p : Phase} (h : p.converting = true) : p.quiescent = false := by
  cases p with
  | idle | check | frame | done | err => cases h
  | setup | fill | repl | padout | hdr | data | trail | restore => rfl

theorem busy_of_converting (h : s.phase.converting = true) : s.busy = true :=
  busy_of_phase rfl (quiescent_of_converting h)

theorem phase_ne_check_of_converting (h : s.phase.converting = true) : s.phase ≠ .check := fun hp => by
  rw [hp] at h
  cases h

/-- A step of a conversion leaves the image and the closed form it follows as they are (R22). -/
theorem streamOf_step {t : State} (hp : s.phase.converting = true) (hr : s.rst = false) (h : step s = .next t) :
    streamOf t P = streamOf s P ∧ t.w = s.w ∧ t.h = s.h := by
  obtain ⟨hcfg, hbusy, hregs⟩ := latchedRegistersAreStable s t h
  obtain ⟨hres, hjust, -⟩ := hbusy hr (busy_of_converting hp)
  obtain ⟨hw, hh, -⟩ := hregs hr (phase_ne_check_of_converting hp)
  exact ⟨by rw [streamOf, hcfg, hres, hjust, hw, hh, streamOf], hw, hh⟩

theorem packedPixel_converting {u : State} {x i : Nat} {p : Bool} (hu : Machine.pack x i p s = .ok u)
    (hp : s.phase = .fill) : (advancePixel u).phase.converting = true := by
  obtain ⟨-, -, -, rfl⟩ := pack_ok.1 hu
  unfold advancePixel endFill
  split_ifs <;> simp [hp, Phase.converting]

theorem replicatedColumn_converting {u : State} {x : Nat} (hu : Machine.replicate x s = .ok u)
    (hp : s.phase = .repl) : (advanceColumn u).phase.converting = true := by
  obtain ⟨-, -, -, rfl⟩ := replicate_ok.1 hu
  unfold advanceColumn
  split <;> simp [hp, Phase.converting]

/-- A written byte leaves the conversion running, but for the second one of `LSPD` (R216). -/
theorem afterSend_converting (h : s.phase.converting = true) :
    (afterSend s).phase.converting = true ∨ s.phase = .restore ∧ s.k + 1 = 2 ∧ (afterSend s).phase = .done := by
  cases hp : s.phase with
  | idle | check | frame | done | err => simp [hp, Phase.converting] at h
  | fill | repl | padout => simp [afterSend, hp, Phase.converting]
  | setup | hdr =>
    simp only [afterSend, hp, afterByte]
    split <;> exact .inl rfl
  | data =>
    simp only [afterSend, hp, advanceData]
    split <;> exact .inl rfl
  | trail =>
    simp only [afterSend, hp, afterByte, advanceBand]
    split_ifs <;> exact .inl rfl
  | restore =>
    simp only [afterSend, hp, afterByte]
    split
    · next hlast => exact .inr ⟨trivial, hlast, rfl⟩
    · exact .inl rfl

namespace Converting

variable {t : State}

/-- What a step of a conversion must be shown to keep, the rest being kept by every step: seen from outside, it leads to
`u` but for `PHASE`. -/
theorem carry {u : State} (h : Converting P s) (hr : s.rst = false) (hs : Machine.step s = .next t)
    (hseen : t.observe = { u.observe with phase := t.phase }) (hp : t.phase.converting = true) (hband : BandHolds P t)
    (hsource : PixelsAgree P u.npx u.pxAns) (hstream : u.out <+: streamOf s P) : Converting P t := by
  obtain ⟨hstr, hw, hh⟩ := streamOf_step (P := P) h.phase hr hs
  have hcfg := (latchedRegistersAreStable s t hs).1
  have hout : t.out = u.out := congrArg Observed.out hseen
  have hnpx : t.npx = u.npx := congrArg Observed.npx hseen
  have hpx : t.pxAns = u.pxAns := congrArg Observed.pxAns hseen
  rw [← hnpx, ← hpx] at hsource
  rw [← hout, ← hstr] at hstream
  exact ⟨hp, hcfg ▸ h.config, step_keeps_ranges (fun _ => h.config) h.ranges hs,
    step_keeps_accounting h.ranges h.accounting hs, hband, by rw [hw, hh, h.image], hsource, hstream⟩

theorem fill_ranges (h : Converting P s) (hp : s.phase = .fill) :
    ConversionRegs s ∧ s.y < s.h ∧ s.i < s.rowh ∧ s.x < s.w ∧ BandWritten s := by
  simpa only [PhaseRanges, hp] using h.ranges

/-- The `FILL` step packs the pixel of R175: of the source in a real sub-row, clear below (R206). -/
theorem bandHolds_packedPixel {p : Bool} {u : State} {as : List PxAnswer} {n : Nat} (h : Converting P s)
    (hp : s.phase = .fill) (hpix : p = pix s.w s.h P s.y s.x s.i)
    (hu : pack s.x s.i p { s with pxAns := as, npx := n } = .ok u) : BandHolds P (advancePixel u) := by
  obtain ⟨hr, -, hi, hx, -⟩ := h.fill_ranges hp
  have hband := h.band
  simp only [BandHolds, hp] at hband
  subst hpix
  have hpacked := PackedBelow.pack (s := { s with pxAns := as, npx := n }) hband h.image hr.rowh hi hx hu
  obtain ⟨-, _, -, rfl⟩ := pack_ok.1 hu
  exact hpacked.bandHolds_advancePixel hp h.image hr.rowh

/-- In a real sub-row a pixel of the image is still to be taken (R67). -/
theorem npx_eq (h : Converting P s) (hp : s.phase = .fill) (hy : s.y + s.i < s.h) :
    s.npx = (s.y + s.i) * s.w + s.x ∧ s.npx < P.length := by
  obtain ⟨-, -, -, hx, -⟩ := h.fill_ranges hp
  have hacc := h.accounting
  simp only [Accounting, hp, if_pos hy, Nat.min_eq_left hy.le] at hacc
  obtain ⟨-, hnpx⟩ := hacc
  refine ⟨hnpx, ?_⟩
  rw [hnpx, h.image, Nat.mul_comm s.w]
  exact rowMajor_lt hx hy

/-- The pixel the source answers in a real sub-row is that of R175. -/
theorem eq_pix (h : Converting P s) (hp : s.phase = .fill) (hy : s.y + s.i < s.h) {p : Bool} {as : List PxAnswer}
    (ha : s.pxAns = .px p :: as) : p = pix s.w s.h P s.y s.x s.i := by
  obtain ⟨hnpx, hlt⟩ := h.npx_eq hp hy
  have hat : P[s.npx]? = some p := h.source 0 p hlt (by rw [ha]; rfl)
  rw [pix, if_pos hy, ← hnpx, List.getD_eq_getElem?_getD, hat]
  rfl

/-- `PACK` at (`X`, `I`) finds its byte (R62, R183). -/
theorem packs (h : Converting P s) (hp : s.phase = .fill) (p : Bool) (as : List PxAnswer) (n : Nat) :
    ∃ u, pack s.x s.i p { s with pxAns := as, npx := n } = .ok u := by
  obtain ⟨hr, -, hi, hx, hw⟩ := h.fill_ranges hp
  have hlt := packAddr_lt hr hi hx
  obtain ⟨old, hold⟩ := Option.isSome_iff_exists.1 (hw _ hlt)
  exact ⟨_, pack_ok.2 ⟨hlt.trans_le (hr.nbytes_le h.config), old, hold, rfl⟩⟩

/-- When the second byte of `LSPD` is written, the whole stream is emitted and every pixel taken (R219, R67). -/
theorem complete_of_last (h : Converting P s) (hp : s.phase = .restore) (hk : s.k + 1 = 2) :
    s.out.length + 1 = (streamOf s P).length ∧ s.npx = P.length := by
  have hR := h.ranges
  have hacc := h.accounting
  simp only [PhaseRanges, hp] at hR
  simp only [Accounting, hp] at hacc
  obtain ⟨hr, hlo, hhi, -⟩ := hR
  obtain ⟨ho, hn⟩ := hacc
  rw [streamOf, conversionStream_eq, List.length_append, hr.bandCount_eq hlo hhi, ← sentBefore_eq_length P hr, ho, hn,
    Nat.add_assoc, hk, h.image, Nat.mul_comm]
  exact ⟨rfl, rfl⟩

/-- A step of a conversion, whatever the source and the channel answer, keeps it or ends it. -/
theorem step (h : Converting P s) (hr : s.rst = false) (hs : Machine.step s = .next t) :
    Converting P t ∨ ConversionEnded P t := by
  obtain ⟨hstr, -⟩ := streamOf_step (P := P) h.phase hr hs
  have hbusy := busy_of_converting h.phase
  have hfail : t.phase = .err → t.out = s.out → ConversionEnded P t := fun hp ho =>
    .inr ⟨hp, by rw [ho, hstr]; exact h.stream⟩
  cases step_cases hs with
  | reset hrst => simp [hr] at hrst
  | waits => exact .inl h
  | acceptEncode _ hq | acceptFrame _ hq => simp [hbusy] at hq
  | headerRaises _ hp | headerPasses _ hp => exact absurd hp (phase_ne_check_of_converting h.phase)
  | pixelRaises | sendFails => exact .inr (hfail rfl rfl)
  | pixel _ hp hy ha hu =>
    have hband := h.bandHolds_packedPixel hp (h.eq_pix hp hy ha) hu
    exact .inl (h.carry hr hs (packedPixel_observe hu) (packedPixel_converting hu hp) hband (ha ▸ h.source).tail h.stream)
  | clearPixel _ hp hy hu =>
    have hband := h.bandHolds_packedPixel hp (by rw [pix, if_neg (Nat.not_lt.2 hy)]) hu
    exact .inl (h.carry hr hs (packedPixel_observe hu) (packedPixel_converting hu hp) hband h.source h.stream)
  | replicates _ hp hu =>
    have hR := h.ranges
    have hcols := h.band
    simp only [PhaseRanges, hp] at hR
    simp only [BandHolds, hp] at hcols
    obtain ⟨-, hlow, -, hx, -⟩ := hR
    have hband := hcols.bandHolds_advanceColumn hp hlow hx hu
    exact .inl (h.carry hr hs (replicatedColumn_observe hu) (replicatedColumn_converting hu hp) hband h.source h.stream)
  | paddingDone _ hp =>
    have hband := h.band
    simp only [BandHolds, hp] at hband
    exact .inl (h.carry (u := s) hr hs rfl rfl hband h.source h.stream)
  | @sent b as _ hb ha =>
    have hseen := afterSend_observe { s with chAns := as, out := s.out ++ [b], ch := s.ch ++ [b] }
    have hstream := prefix_concat h.stream (streamOf_getElem?_of_emitted h.phase h.ranges h.accounting h.band hb)
    obtain hp | ⟨hp, hk, hdone⟩ :=
      afterSend_converting (s := { s with chAns := as, out := s.out ++ [b], ch := s.ch ++ [b] }) h.phase
    · exact .inl (h.carry hr hs hseen hp (bandHolds_afterSend h.band) h.source hstream)
    · obtain ⟨hlen, hall⟩ := h.complete_of_last hp hk
      have hwhole : s.out ++ [b] = streamOf s P :=
        hstream.eq_of_length (by rw [List.length_append, List.length_singleton, hlen])
      exact .inr (.inl ⟨hdone, hstr ▸ (congrArg Observed.out hseen).trans hwhole,
        (congrArg Observed.npx hseen).trans hall⟩)

end Converting

end

end Sys2Proof.Machine
end

section
/-! SUPPORT. The start of a conversion: a request taken from the lines (R201), `ENCODE` accepted (R202), the checks passed
(R204). With it, that `OUT` is at every step the start of the closed form (R222). -/

namespace Sys2Proof.Machine

section

variable {s : State}

/-- At `BUSY` = 0 the step runs the first request on the lines (R201). -/
theorem step_of_reqs {q : Request} {rest : List Request} {i : Instr} (hr : s.rst = false) (hb : s.busy = false)
    (hq : s.reqs = q :: rest) (hd : decode s.cfg q = .ok i) : step s = exec i { s with reqs := rest } := by
  rw [step_quiescent hr hb]
  simp only [fetch, hq, hd]

/-- With no request on the lines a quiescent machine waits (R218). -/
theorem step_of_no_reqs (hr : s.rst = false) (hb : s.busy = false) (hq : s.reqs = []) : step s = .next s := by
  rw [step_quiescent hr hb]
  simp only [fetch, hq, wait]

/-- Settles O20: no request is fetched. -/
theorem quiescentWithoutRequest : Obligations.QuiescentWithoutRequest := fun _ => step_of_no_reqs

/-- Settles O7: an `ENCODE` is accepted as any request is, and its latches are those of R202. -/
theorem encodeAccepted : Obligations.EncodeAccepted := fun _ r j hb hc =>
  whenIdle_accepts (fun t => .next (latchEncode r j t)) hb hc

/-- A header that passes the checks is latched (R204). -/
theorem step_check_pass {w h : Nat} {hs : List HdrAnswer} (hr : s.rst = false) (hp : s.phase = .check)
    (ha : s.hdrAns = .hdr w h :: hs) (hpass : precheck s.cfg s.res s.just w h = .pass) :
    step s = .next (latchImage w h { s with hdrAns := hs }) := by
  rw [step_check hr hp]
  simp only [checkStep, srcHdr, ha, checkHeader, hpass]

/-- The state in which an image that passed the checks is latched begins a conversion. -/
theorem latchImage_converting {w h : Nat} {P : List Bool} (hc : s.cfg.wf = true)
    (hpass : precheck s.cfg s.res s.just w h = .pass) (hout : s.out = []) (hnpx : s.npx = 0)
    (himage : P.length = w * h) (hsource : PixelsAgree P 0 s.pxAns) : Converting P (latchImage w h s) :=
  ⟨rfl, hc, ⟨latchImage_conversionRegs hpass, rfl, Nat.zero_lt_succ _⟩, ⟨by simp [hout], hnpx⟩, trivial, himage,
    by simpa [hnpx] using hsource, by simp [hout]⟩

end

/-- Where an accepted `ENCODE` and a header that passes its checks lead (R202, R204). -/
def conversionStart (s : State) (r j : Byte) (w h : Nat) (rest : List Request) (hs : List HdrAnswer) : State :=
  latchImage w h { latchEncode r j { s with reqs := rest } with hdrAns := hs }

section

variable {s : State} {r j : Byte} {w h : Nat} {rest : List Request} {hs : List HdrAnswer} {P : List Bool}

theorem step_encode (hr : s.rst = false) (hb : s.busy = false) (hc : s.cfg.wf = true)
    (hq : s.reqs = .encodeRec r j :: rest) : step s = .next (latchEncode r j { s with reqs := rest }) :=
  (step_of_reqs hr hb hq rfl).trans (encodeAccepted { s with reqs := rest } r j hb hc)

theorem step_latchEncode (hr : s.rst = false) (ha : s.hdrAns = .hdr w h :: hs)
    (hpass : precheck s.cfg r j w h = .pass) :
    step (latchEncode r j { s with reqs := rest }) = .next (conversionStart s r j w h rest hs) :=
  step_check_pass (s := latchEncode r j { s with reqs := rest }) hr rfl ha hpass

theorem conversionStart_converting (hc : s.cfg.wf = true) (hpass : precheck s.cfg r j w h = .pass)
    (himage : P.length = w * h) (hsource : PixelsAgree P 0 s.pxAns) :
    Converting P (conversionStart s r j w h rest hs) := by
  refine latchImage_converting ?_ ?_ rfl rfl himage ?_
  · exact hc
  · exact hpass
  · exact hsource

end

/-! ## The start of the closed form (R222) -/

/-- A conversion of the pixels `P` that runs or is over, and no request after it. -/
structure Follows (P : List Bool) (s : State) : Prop where
  rst : s.rst = false
  reqs : s.reqs = []
  conversion : Converting P s ∨ ConversionEnded P s

theorem Follows.stream {P : List Bool} {s : State} (h : Follows P s) : s.out <+: streamOf s P := by
  obtain hrun | ⟨-, hall, -⟩ | ⟨-, hpre⟩ := h.conversion
  · exact hrun.stream
  · exact hall ▸ List.prefix_rfl
  · exact hpre

/-- Every step keeps a conversion that runs or is over on its closed form. -/
theorem Follows.step {P : List Bool} {s t : State} (h : Follows P s) (hs : Machine.step s = .next t) :
    Follows P t ∧ streamOf t P = streamOf s P := by
  obtain ⟨hr, hq, hrun | hend⟩ := h
  · obtain ⟨hr', hq'⟩ := step_busy_inputs hr (busy_of_converting hrun.phase) hs
    exact ⟨⟨hr'.trans hr, hq'.trans hq, hrun.step hr hs⟩, (streamOf_step hrun.phase hr hs).1⟩
  · have hb : s.busy = false := by
      refine (busy_eq_false_iff s).2 ?_
      obtain ⟨hp, -⟩ | ⟨hp, -⟩ := hend <;> simp [hp]
    rw [step_of_no_reqs hr hb hq] at hs
    cases hs
    exact ⟨⟨hr, hq, .inr hend⟩, rfl⟩

theorem Follows.runSteps {P : List Bool} {s t : State} (n : Nat) (h : Follows P s) (hs : runSteps n s = .next t) :
    t.out <+: streamOf s P := by
  induction n generalizing s with
  | zero =>
    cases hs
    exact h.stream
  | succ n ih =>
    simp only [Machine.runSteps] at hs
    split at hs
    · next u hu =>
      obtain ⟨hu', hstr⟩ := h.step hu
      exact hstr ▸ ih hu' hs
    · cases hs
    · cases hs

/-- Settles O59: nothing is emitted before the checks have passed, and from there on every step stays on the closed
form. -/
theorem emittedStreamIsAPrefix : Obligations.EmittedStreamIsAPrefix := by
  intro s t r j w h n P hr hb hc hpass hq ha himage hsource hrun
  have hagree : PixelsAgree P 0 s.pxAns := fun m b hlt hm => by
    rw [Nat.zero_add] at hlt ⊢
    exact hsource m b (himage ▸ hlt) hm
  rw [Machine.runSteps, step_encode hr hb hc hq] at hrun
  cases n with
  | zero =>
    cases hrun
    exact List.nil_prefix
  | succ n =>
    simp only [Machine.runSteps, step_latchEncode hr ha hpass] at hrun
    have hstart : Follows P (conversionStart s r j w h [] []) :=
      ⟨hr, rfl, .inl (conversionStart_converting hc hpass himage hagree)⟩
    exact hstart.runSteps n hrun

end Sys2Proof.Machine
end

section
/-! SUPPORT. A conversion whose transactions are all answered without a failure: each step sends the next byte of the
closed form, or brings the tiler forward, until the stream is whole (R218, R219, R67). -/

namespace Sys2Proof.Machine

/-! ## The step that writes a byte -/

/-- The channel takes the byte. -/
theorem step_sends {s : State} {b : Byte} {as : List ChAnswer} (hr : s.rst = false) (hb : emitted s = some b)
    (ha : s.chAns = .ok :: as) :
    step s = .next (afterSend { s with chAns := as, out := s.out ++ [b], ch := s.ch ++ [b] }) :=
  (step_of_emitted hr hb).trans (chPut_ok b afterSend ha)

/-- The channel does not take the byte (R217). -/
theorem step_send_fails {s : State} {b : Byte} {as : List ChAnswer} (hr : s.rst = false) (hb : emitted s = some b)
    (ha : s.chAns = .chFail :: as) : step s = .next (raise .ioError { s with chAns := as }) :=
  (step_of_emitted hr hb).trans (chPut_fail b afterSend ha)

/-! ## What a fault-free conversion keeps -/

/-- How far the tiler is from the emission of its band, in steps. -/
def tilerSteps (s : State) : Nat :=
  match s.phase with
  | .fill => s.rowh * s.w - (s.i * s.w + s.x) + s.w + 2
  | .repl => s.w - s.x + 1
  | .padout => 1
  | .idle | .check | .setup | .hdr | .data | .trail | .restore | .frame | .done | .err => 0

/-- The measure that every step of a fault-free conversion decreases: the bytes to come, and then the tiler's steps, of
which a band takes less than `25 * W + 4`. -/
def stepsLeft (P : List Bool) (s : State) : Nat :=
  ((streamOf s P).length - s.out.length) * (25 * s.w + 4) + tilerSteps s

/-- What is seen of a conversion of `P` between its steps, if nothing fails: `o` is what is seen outside it, the answers that
will be left, the rest of the requests, and what the printer had received before. -/
def seenMidway (o : Observed) (P : List Bool) (S : List Byte) (p : Phase) (out : List Byte) (npx : Nat) : Observed :=
  { o with
    phase := p, out := out, npx := npx, pxAns := (P.drop npx).map .px ++ o.pxAns
    chAns := List.replicate (S.length - out.length) .ok ++ o.chAns, ch := o.ch ++ out }

/-- A conversion of the pixels `P` that runs and whose coming answers are all it needs, before those of `o`. -/
structure FaultFree (o : Observed) (P : List Bool) (S : List Byte) (s : State) : Prop where
  converting : Converting P s
  rst : s.rst = false
  stream : streamOf s P = S
  seen : s.observe = seenMidway o P S s.phase s.out s.npx

/-- The conversion has emitted its stream, taken its pixels, and left the answers of `o`. -/
def Completed (o : Observed) (P : List Bool) (S : List Byte) (s : State) : Prop :=
  s.observe = seenMidway o P S .done S P.length

/-- The next step completes the conversion, or goes on with fewer steps left. -/
def Progresses (o : Observed) (P : List Bool) (S : List Byte) (s : State) : Prop :=
  ∃ t, step s = .next t ∧ (Completed o P S t ∨ FaultFree o P S t ∧ stepsLeft P t < stepsLeft P s)

section

variable {o : Observed} {P : List Bool} {S : List Byte} {s t : State}

/-! ## The measure -/

theorem tilerSteps_lt (h : Converting P s) : tilerSteps s < 25 * s.w + 4 := by
  unfold tilerSteps
  split
  · next hp =>
    obtain ⟨hr, -⟩ := h.fill_ranges hp
    have := Nat.mul_le_mul_right s.w (hr.rowh ▸ rowhOf_le s.res)
    omega
  all_goals omega

/-- The advance after a pixel brings the tiler one step forward, and so does leaving `FILL` (R206, R208). -/
theorem tilerSteps_advancePixel (hp : s.phase = .fill) (hlt : s.i * s.w + s.x < s.rowh * s.w) :
    tilerSteps (advancePixel s) < tilerSteps s := by
  have hm := TilerMove.advancePixel s
  obtain ⟨hfill, hpos⟩ | ⟨⟨-, hrepl, -⟩ | ⟨-, hpad, -⟩, -⟩ := advancePixel_position hp
  · simp only [tilerSteps, hp, hfill, hm.w, hm.rowh, hpos]
    omega
  · simp only [tilerSteps, hp, hrepl, hm.w]
    omega
  · simp only [tilerSteps, hp, hpad]
    omega

theorem tilerSteps_packedPixel {x i : Nat} {p : Bool} (ht : pack x i p s = .ok t) (hp : s.phase = .fill)
    (hlt : s.i * s.w + s.x < s.rowh * s.w) : tilerSteps (advancePixel t) < tilerSteps s := by
  obtain ⟨-, _, -, rfl⟩ := pack_ok.1 ht
  exact tilerSteps_advancePixel hp hlt

/-- Replicating a column brings the tiler one step forward (R210). -/
theorem tilerSteps_replicatedColumn {x : Nat} (ht : replicate x s = .ok t) (hp : s.phase = .repl) (hx : s.x < s.w) :
    tilerSteps (advanceColumn t) < tilerSteps s := by
  obtain ⟨-, _, -, rfl⟩ := replicate_ok.1 ht
  unfold advanceColumn
  split
  all_goals
    simp only [tilerSteps, hp]
    omega

namespace FaultFree

/-- A step that, seen from outside, leads but for `PHASE` to a state `u` whose coming answers are all that is needed,
completes the conversion or goes on, with a byte sent or the tiler brought forward. -/
theorem advance {u : State} (h : FaultFree o P S s) (hs : Machine.step s = .next t) (hp : t.phase ≠ .err)
    (hseen : t.observe = { u.observe with phase := t.phase }) (hu : u.observe = seenMidway o P S s.phase u.out u.npx)
    (hless : u.out.length = s.out.length + 1 ∨ u.out.length = s.out.length ∧ tilerSteps t < tilerSteps s) :
    Completed o P S t ∨ FaultFree o P S t ∧ stepsLeft P t < stepsLeft P s := by
  obtain ⟨hconv, hr, hS, -⟩ := h
  obtain ⟨hstr, hw, -⟩ := streamOf_step (P := P) hconv.phase hr hs
  have hout : t.out = u.out := congrArg Observed.out hseen
  have hnpx : t.npx = u.npx := congrArg Observed.npx hseen
  rw [← hout, ← hnpx] at hu
  rw [hu] at hseen
  obtain ht | ⟨hdone, hall, htaken⟩ | ⟨herr, -⟩ := hconv.step hr hs
  · obtain ⟨hrst, -⟩ := step_busy_inputs hr (busy_of_converting hconv.phase) hs
    refine .inr ⟨⟨ht, hrst.trans hr, hstr.trans hS, hseen⟩, ?_⟩
    have htiler := tilerSteps_lt ht
    have hlen := ht.stream.length_le
    rw [hw] at htiler
    rw [hstr] at hlen
    rw [stepsLeft, stepsLeft, hstr, hw]
    rw [← hout] at hless
    obtain hsent | ⟨hkept, hlt⟩ := hless
    · have hone : (streamOf s P).length - s.out.length = (streamOf s P).length - t.out.length + 1 := by omega
      rw [hone, Nat.succ_mul (_ - _)]
      omega
    · rw [hkept]
      omega
  · left
    rw [Completed, hseen, hdone, hall, htaken, hstr, hS]
    rfl
  · exact absurd herr hp

/-- Where the conversion writes a byte, the channel takes it, and the stream goes on by it. -/
theorem sends {b : Byte} (h : FaultFree o P S s) (hb : emitted s = some b) : Progresses o P S s := by
  obtain ⟨hconv, hr, hS, hseen⟩ := id h
  have hat := streamOf_getElem?_of_emitted hconv.phase hconv.ranges hconv.accounting hconv.band hb
  have hlen : s.out.length < S.length := hS ▸ (List.getElem?_eq_some_iff.1 hat).1
  have hrest : S.length - s.out.length = S.length - (s.out ++ [b]).length + 1 := by
    rw [List.length_append, List.length_singleton]
    omega
  obtain ⟨as, has⟩ : ∃ as, as = List.replicate (S.length - (s.out ++ [b]).length) ChAnswer.ok ++ o.chAns := ⟨_, rfl⟩
  have hans : s.chAns = .ok :: as :=
    (congrArg Observed.chAns hseen).trans (by rw [seenMidway, hrest, List.replicate_succ, has, List.cons_append])
  have hstep := step_sends hr hb hans
  have herr : s.phase ≠ .err := fun hp => by simp [emitted, hp] at hb
  refine ⟨_, hstep, h.advance hstep (afterSend_phase_ne_err herr) (afterSend_observe _) ?_ (.inl ?_)⟩
  · show { s.observe with chAns := as, out := s.out ++ [b], ch := s.observe.ch ++ [b] } = _
    rw [hseen, has]
    simp only [seenMidway, List.append_assoc]
  · exact List.length_append

/-- Where the tiler takes a pixel, the source has it (R206). -/
theorem takesPixel (h : FaultFree o P S s) (hp : s.phase = .fill) (hy : s.y + s.i < s.h) : Progresses o P S s := by
  obtain ⟨hconv, hr, -, hseen⟩ := id h
  obtain ⟨-, -, hi, hx, -⟩ := hconv.fill_ranges hp
  obtain ⟨-, hlt⟩ := hconv.npx_eq hp hy
  obtain ⟨as, has⟩ : ∃ as, as = (P.drop (s.npx + 1)).map .px ++ o.pxAns := ⟨_, rfl⟩
  have hans : s.pxAns = .px P[s.npx] :: as :=
    (congrArg Observed.pxAns hseen).trans
      (by rw [seenMidway, List.drop_eq_getElem_cons hlt, List.map_cons, has, List.cons_append])
  obtain ⟨u, hu⟩ := hconv.packs hp P[s.npx] as (s.npx + 1)
  have hstep : Machine.step s = .next (advancePixel u) := by
    rw [step_fill hr hp, fillStep, if_pos hy, srcNext, hans]
    simp only [packPixel, hu]
  have htiler := tilerSteps_packedPixel hu hp (rowMajor_lt hx hi)
  have herr := packedPixel_phase_ne_err (by simp [hp]) hu
  refine ⟨_, hstep, h.advance hstep herr (packedPixel_observe hu) ?_ (.inr ⟨rfl, htiler⟩)⟩
  · show { s.observe with pxAns := as, npx := s.npx + 1 } = _
    rw [hseen, has]
    rfl

/-- A sub-row at or below `H` needs no answer (R206). -/
theorem clearsPixel (h : FaultFree o P S s) (hp : s.phase = .fill) (hy : ¬s.y + s.i < s.h) : Progresses o P S s := by
  obtain ⟨hconv, hr, -, hseen⟩ := id h
  obtain ⟨-, -, hi, hx, -⟩ := hconv.fill_ranges hp
  obtain ⟨u, hu⟩ := hconv.packs hp false s.pxAns s.npx
  have hstep : Machine.step s = .next (advancePixel u) := by
    rw [step_fill hr hp, fillStep, if_neg hy, packPixel, hu]
  have htiler := tilerSteps_packedPixel hu hp (rowMajor_lt hx hi)
  have herr := packedPixel_phase_ne_err (by simp [hp]) hu
  exact ⟨_, hstep, h.advance hstep herr (packedPixel_observe hu) hseen (.inr ⟨rfl, htiler⟩)⟩

/-- `REPL` needs no answer (R210). -/
theorem replicates (h : FaultFree o P S s) (hp : s.phase = .repl) : Progresses o P S s := by
  obtain ⟨hconv, hr, -, hseen⟩ := id h
  have hR := hconv.ranges
  simp only [PhaseRanges, hp] at hR
  obtain ⟨hregs, -, -, hx, hw⟩ := hR
  have hband := hregs.nbytes_le hconv.config
  have hn := hregs.nbytes
  obtain ⟨v, hv⟩ := Option.isSome_iff_exists.1 (hw (3 * s.x) (by omega))
  obtain ⟨u, hu⟩ : ∃ u, replicate s.x s = .ok u := ⟨_, replicate_ok.2 ⟨by omega, v, hv, rfl⟩⟩
  have hstep : Machine.step s = .next (advanceColumn u) := by rw [step_repl hr hp, replStep, hu]
  have herr := replicatedColumn_phase_ne_err (by simp [hp]) hu
  exact ⟨_, hstep, h.advance hstep herr (replicatedColumn_observe hu) hseen
    (.inr ⟨rfl, tilerSteps_replicatedColumn hu hp hx⟩)⟩

/-- The end of the padding needs no answer (R209). -/
theorem endsPadding (h : FaultFree o P S s) (hp : s.phase = .padout) (hk : s.pad ≤ s.k) : Progresses o P S s := by
  obtain ⟨-, hr, -, hseen⟩ := id h
  have hstep := (step_padout hr hp).trans (if_neg (Nat.not_lt.2 hk))
  exact ⟨_, hstep, h.advance (u := s) hstep nofun rfl hseen (.inr ⟨rfl, by simp [tilerSteps, hp]⟩)⟩

/-- Every step of a fault-free conversion completes it or decreases the measure. -/
theorem step (h : FaultFree o P S s) : Progresses o P S s := by
  cases hb : emitted s with
  | some b => exact h.sends hb
  | none =>
    obtain ⟨hconv, -⟩ := id h
    obtain hp | hp | hp | ⟨hp, hk⟩ :=
      silent_phases (busy_of_converting hconv.phase) hconv.config hconv.ranges hb
    · exact absurd hp (phase_ne_check_of_converting hconv.phase)
    · by_cases hy : s.y + s.i < s.h
      · exact h.takesPixel hp hy
      · exact h.clearsPixel hp hy
    · exact h.replicates hp
    · exact h.endsPadding hp hk

end FaultFree

end

/-! ## The whole conversion -/

/-- Settles O58: the two steps of acceptance and `CHECK`, and then every step of a fault-free conversion until it is
completed. -/
theorem conversionEmitsTheClosedForm : Obligations.ConversionEmitsTheClosedForm := by
  intro s r j w h P rest hs ps cs hr hb hc hpass hq ha himage hps hcs
  have hagree : PixelsAgree P 0 s.pxAns := fun m b hlt hm => by
    rw [Nat.zero_add] at hlt ⊢
    rw [hps, List.getElem?_append_left (by simpa using hlt), List.getElem?_map] at hm
    simpa using hm
  have hstart : FaultFree { s.observe with errcode := 0, reqs := rest, hdrAns := hs, pxAns := ps, chAns := cs } P
      (conversionStream s.cfg r j w h P) (conversionStart s r j w h rest hs) := by
    refine ⟨conversionStart_converting hc hpass himage hagree, hr, rfl, ?_⟩
    simp [State.observe, seenMidway, conversionStart, hps, hcs]
  obtain ⟨t, hrun, hend⟩ := LeadsTo.of_measure (stepsLeft P) (fun _ => FaultFree.step) hstart
  obtain ⟨n, hn⟩ := (hrun.head (step_latchEncode hr ha hpass)).head (step_encode hr hb hc hq)
  simp only [Completed, seenMidway, State.observe, Observed.mk.injEq] at hend
  obtain ⟨-, hphase, herrcode, herrlog, hout, hnpx, -, hreqs, hhdr, hpx, hchans, hch⟩ := hend
  have hstatus : t.status = ⟨false, 0, s.errlog⟩ := by
    simp [State.status, State.busy, hphase, herrcode, herrlog, Phase.quiescent]
  exact ⟨n, t, hn, hphase, hstatus, hout, hch, hnpx.trans himage, hreqs, hhdr, by simpa using hpx, by simpa using hchans⟩

end Sys2Proof.Machine
end

section
/-! SUPPORT. The emitting steps written out (R205, R209 to R213, R216) and what a channel failure does in them (R217). -/

namespace Sys2Proof.Machine

section

variable {s : State} {b : Byte} {as : List ChAnswer}

/-- Settles O31: a byte of `LSP PITCH`, and the start of the first band after the third (R205). -/
theorem linePitchSetStep : Obligations.LinePitchSetStep := by
  intro s b as hr hp hb ha
  have he : emitted s = some b := by
    simp only [emitted, hp]
    exact hb
  rw [step_sends hr he ha]
  by_cases hk : s.k = 2 <;> simp [afterSend, hp, afterByte, startBand, hk]

/-- Settles O36: a byte of the trailer, and the band loop after the second (R213 to R215). -/
theorem trailerAndBandLoop : Obligations.TrailerAndBandLoop := by
  intro s as hr hp ha
  have he : ∀ {b}, (trailerBytes s.cfg)[s.k]? = some b → emitted s = some b := fun h => by
    simpa only [emitted, hp] using h
  refine ⟨fun hk => ?_, fun hk hmore => ?_, fun hk hlast => ?_⟩
  · rw [step_sends hr (he (by rw [hk]; rfl)) ha]
    simp [afterSend, hp, afterByte, hk]
  · rw [step_sends hr (he (by rw [hk]; rfl)) ha]
    simp [afterSend, hp, afterByte, hk, advanceBand, hmore, startBand]
  · rw [step_sends hr (he (by rw [hk]; rfl)) ha]
    simp [afterSend, hp, afterByte, hk, advanceBand, Nat.not_lt.2 hlast]

/-- Settles O37: the two bytes of `LSPD`, the second ending in `DONE` (R216). -/
theorem linePitchRestoreStep : Obligations.LinePitchRestoreStep := by
  intro s as hr hp
  have he : ∀ {b}, (lspdBytes s.cfg)[s.k]? = some b → emitted s = some b := fun h => by
    simpa only [emitted, hp] using h
  refine ⟨fun hk ha => ?_, fun hk ha => ?_, fun hk ha => ?_⟩
  · rw [step_sends hr (he (by rw [hk]; rfl)) ha]
    simp [afterSend, hp, afterByte, hk]
  · rw [step_sends (b := 0x32) hr (he (by rw [hk]; rfl)) ha]
    simp [afterSend, hp, afterByte, hk]
  · exact step_send_fails hr (he (List.getElem?_eq_getElem hk)) ha

/-! ## `PADRUN` and `BIMG` -/

/-- Settles O32: the three clauses of R209. -/
theorem paddingRunStep : Obligations.PaddingRunStep := by
  intro s pad as hp
  have hexec : exec (.padrun pad) s = if s.k < pad then chPut s.cfg.sp (fun t => { t with k := t.k + 1 }) s
      else .next { s with k := 0, phase := .hdr } := by simp [exec, execPadrun, hp]
  refine ⟨fun hk ha => ?_, fun hk ha => ?_, fun hk => ?_⟩
  · rw [hexec, if_pos hk, chPut_ok _ _ ha]
  · rw [hexec, if_pos hk, chPut_fail _ _ ha]
  · rw [hexec, if_neg (Nat.not_lt.2 hk)]

theorem lowByte_eq (cols : BitVec 16) : lowByte cols = BitVec.ofNat 8 (cols.toNat % 256) := by
  apply BitVec.eq_of_toNat_eq
  simp [lowByte]

theorem highByte_eq (cols : BitVec 16) : highByte cols = BitVec.ofNat 8 (cols.toNat / 256) := by
  apply BitVec.eq_of_toNat_eq
  simp [highByte, Nat.shiftRight_eq_div_pow]

/-- Settles O33: the header bytes with the column count low byte first (R94, R99, R211). -/
theorem bandHeaderStep : Obligations.BandHeaderStep := by
  intro s m cols d b as hp hb ha
  have hbyte : (bimgHeader s.cfg m cols)[s.k]? = some b := by
    rw [bimgHeader, lowByte_eq, highByte_eq]
    exact hb
  have hexec : exec (.bimg m cols d) s = emitByte (bimgHeader s.cfg m cols) endHeader s := by simp [exec, execBimg, hp]
  rw [hexec, emitByte_eq endHeader hbyte, chPut_ok _ _ ha]
  by_cases hk : s.k = 4 <;> simp [afterByte, endHeader, hk, hp]

/-- The advance after a band byte (R212), written out. -/
theorem advanceData_eq (hp : s.phase = .data) :
    advanceData s = { s with
      k := if s.k + 1 = s.nbytes then 0 else s.k + 1
      phase := if s.k + 1 = s.nbytes then .trail else .data } := by
  unfold advanceData
  split <;> simp [hp]

/-- Settles O34: the band byte as it is given, and the advance of R212. -/
theorem bandDataStep : Obligations.BandDataStep := by
  intro s m cols d b as hp hk hb ha
  have hexec : exec (.bimg m cols d) s = emitBandByte d s := by simp [exec, execBimg, hp]
  rw [hexec, emitBandByte, if_pos hk, hb]
  exact (chPut_ok b advanceData ha).trans (congrArg Host.Outcome.next (advanceData_eq hp))

/-- Settles O35: in range the band is read whole, so its byte `K` is `BUF[K]` (R212). -/
theorem dataStepWritesTheBufferByte : Obligations.DataStepWritesTheBufferByte := by
  intro s b as hs hr hp hb
  have hR := hs.ranges
  simp only [PhaseRanges, hp] at hR
  obtain ⟨hregs, -, hk, hw⟩ := hR
  have hlt : s.k < (bandBytes s).length := by rwa [bandBytes_length hs.config hregs hw]
  have hat : (bandBytes s)[s.k]? = some b := by
    obtain ⟨-, hread⟩ := readRun_getElem (List.getElem?_eq_getElem hlt)
    obtain ⟨-, hread⟩ := memRead_ok.1 hread
    rw [List.getElem?_eq_getElem hlt, ← hb, ← hread, Nat.zero_add]
  have he : emitted s = some b := by simp only [emitted, hp, if_pos (hk.trans_le (hregs.nbytes_le hs.config)), hat]
  refine ⟨fun ha => ?_, fun ha => step_send_fails hr he ha⟩
  rw [step_sends hr he ha]
  simp only [afterSend, hp]
  exact congrArg Host.Outcome.next (advanceData_eq (s := { s with phase := .data, chAns := as, out := _, ch := _ }) rfl)

/-! ## Channel failures -/

/-- A run reaches past byte `k` when the bytes up to it can be read. -/
theorem lt_readRun_length {a n k : Nat} (hk : k < n) (hfit : a + k < s.cfg.bufBytes)
    (h : ∀ j ≤ k, (s.buf.read (a + j)).isSome = true) : k < (readRun s a n).length := by
  induction n generalizing a k with
  | zero => exact absurd hk (Nat.not_lt_zero k)
  | succ n ih =>
    obtain ⟨v, hv⟩ := Option.isSome_iff_exists.1 (h 0 (Nat.zero_le k))
    rw [readRun, memRead_ok.2 ⟨(Nat.le_add_right a k).trans_lt hfit, hv⟩]
    cases k with
    | zero => exact Nat.zero_lt_succ _
    | succ k =>
      refine Nat.succ_lt_succ (ih (Nat.lt_of_succ_lt_succ hk) (by omega) fun j hj => ?_)
      have hnext : a + 1 + j = a + (j + 1) := by omega
      exact hnext ▸ h (j + 1) (Nat.succ_le_succ hj)

/-- Settles O40: in each of the seven places the step has a byte to write (R217). -/
theorem channelFailureRaises : Obligations.ChannelFailureRaises := by
  intro s as hr ha hplace
  obtain ⟨b, hb⟩ : ∃ b, emitted s = some b := by
    obtain ⟨hp, hk⟩ | ⟨hp, hk⟩ | ⟨hp, hk⟩ | ⟨hp, hk, hfit, hread⟩ | ⟨hp, hk⟩ | ⟨hp, hk⟩ | ⟨hp, hk⟩ := hplace <;>
      simp only [emitted, hp]
    · exact ⟨_, List.getElem?_eq_getElem hk⟩
    · exact ⟨_, if_pos hk⟩
    · exact ⟨_, List.getElem?_eq_getElem hk⟩
    · have hlt := lt_readRun_length (s := s) (a := 0) hk (by omega) fun j hj => by simpa using hread j hj
      exact ⟨_, (if_pos hfit).trans (List.getElem?_eq_getElem hlt)⟩
    · exact ⟨_, List.getElem?_eq_getElem hk⟩
    · exact ⟨_, List.getElem?_eq_getElem hk⟩
    · rw [← frameBytes_length s.cfg] at hk
      exact ⟨_, List.getElem?_eq_getElem hk⟩
  exact step_send_fails hr hb ha

end

end Sys2Proof.Machine
end

section
/-! SUPPORT. The silent steps written out: the pixels of `FILL` (R206 to R208), the columns of `REPL` (R210), and the `CHECK`
step (R203, R204). -/

namespace Sys2Proof.Machine

section

variable {s : State}

/-- The advance after a pixel (R206, R208), field by field. -/
theorem advancePixel_eq (hp : s.phase = .fill) :
    advancePixel s = { s with
      x := if s.x + 1 = s.w then 0 else s.x + 1
      i := if s.x + 1 = s.w then s.i + 1 else s.i
      k := if s.x + 1 = s.w ∧ s.i + 1 = s.rowh ∧ s.res ≠ 0 then 0 else s.k
      phase := if s.x + 1 = s.w ∧ s.i + 1 = s.rowh then (if s.res = 0 then .repl else .padout) else .fill } := by
  unfold advancePixel endFill
  split_ifs <;> simp_all

/-- Packing a pixel where its byte can be read (R176, R206). -/
theorem packPixel_eq {old : Byte} (p : Bool) (hfit : packAddr s.x s.i < s.cfg.bufBytes)
    (hold : s.buf.read (packAddr s.x s.i) = some old) :
    packPixel p s =
      .next (advancePixel { s with buf := s.buf.write (packAddr s.x s.i) (packByte old s.i p) }) := by
  rw [packPixel, pack_ok.2 ⟨hfit, old, hold, rfl⟩]

/-- Settles O26: the pixel, of the source or clear, is packed and the tiler advances (R206, R208). -/
theorem fillStepPacksOnePixel : Obligations.FillStepPacksOnePixel := by
  intro s p as old hr hp hfit hold
  refine ⟨fun hy ha => ?_, fun hy => ?_⟩
  · rw [step_fill hr hp, fillStep, if_pos hy, srcNext, ha]
    refine (packPixel_eq (s := { s with pxAns := as, npx := s.npx + 1 }) p hfit hold).trans ?_
    exact congrArg Host.Outcome.next (advancePixel_eq hp)
  · rw [step_fill hr hp, fillStep, if_neg (Nat.not_lt.2 hy), packPixel_eq false hfit hold]
    exact congrArg Host.Outcome.next (advancePixel_eq hp)

/-- Settles O27: the two failing answers of `SrcNext` in a real sub-row (R207). -/
theorem sourceFailureRaises : Obligations.SourceFailureRaises := by
  intro s as hr hp hy
  refine ⟨fun ha => ?_, fun ha => ?_⟩ <;> rw [step_fill hr hp, fillStep, if_pos hy, srcNext, ha]

/-- The advance of the replicated column (R210), field by field. -/
theorem advanceColumn_eq (hp : s.phase = .repl) :
    advanceColumn s = { s with
      x := s.x + 1, k := if s.x + 1 = s.w then 0 else s.k
      phase := if s.x + 1 = s.w then .padout else .repl } := by
  unfold advanceColumn
  split <;> simp [hp]

/-- Settles O28: column `X` is replicated and `X` advances (R181, R210). -/
theorem replicationStep : Obligations.ReplicationStep := by
  intro s v hr hp hfit hv
  have hrep := replicate_ok.2 ⟨hfit, v, hv, rfl⟩
  have hstep := step_repl hr hp
  rw [replStep, hrep] at hstep
  refine ⟨_, hstep.trans (congrArg Host.Outcome.next (advanceColumn_eq hp)), rfl, ?_, ?_, ?_, fun a h1 h2 => ?_⟩
  · simp [Memory.read_write, hv]
  · simp [Memory.read_write]
  · simp
  · exact (Memory.read_write_other _ _ h2).trans (Memory.read_write_other _ _ h1)

/-! ## The checks -/

/-- The checks on an answered header in the order of R156, with the widths of R150 and the domains of R91 written out. -/
theorem checkHeader_eq (hc : s.cfg.wf = true) (w h : Nat) :
    checkHeader w h s =
      if w = 0 ∨ h = 0 then .next (raise .formatError s)
      else if ¬(s.res = 0 ∨ s.res = 1) then .next (raise .unsupportedModeError s)
      else if ¬(s.just = 0 ∨ s.just = 1 ∨ s.just = 2) then .next (raise .unsupportedModeError s)
      else if (if s.res = 0 then s.cfg.limitLow else s.cfg.limitHigh) < (if s.res = 0 then 3 * w else w) then
        .next (raise .sizeLimitError s)
      else if 2 ^ s.cfg.dimBits ≤ h then .refused .heightNotRepresentable
      else .next (latchImage w h s) := by
  simp only [checkHeader, precheck, validRes, validJust, decide_eq_false_iff_not, limitOf, idw_eq hc, Nat.mul_comm w]
  split_ifs <;> rfl

/-- What passing latches (R204), with `ROWSEL` (R170), `IDW` (R150) and `JCALC` (R157) written out. -/
theorem latchImage_eq (hc : s.cfg.wf = true) (w h : Nat) :
    latchImage w h s = { s with
      w := w, h := h
      rowh := if s.res = 0 then 8 else 24
      cols := if s.res = 0 then 3 * w else w
      nbytes := 3 * w
      pad :=
        if s.just = 0 then 0
        else if s.just = 1 then (s.cfg.deviceWidth - (if s.res = 0 then 3 * w else w)) / 2 / s.cfg.padUnit
        else (s.cfg.deviceWidth - (if s.res = 0 then 3 * w else w)) / s.cfg.padUnit
      dens := if s.res = 0 then s.cfg.densityLow else s.cfg.densityHigh
      pitch := if s.res = 0 then s.cfg.pitchLow else s.cfg.pitchHigh
      y := 0, k := 0, phase := .setup } := by
  simp only [latchImage, idw_eq hc, Nat.mul_comm w]
  rfl

/-- Settles O21: the answer is checked in the order of R156, and what passes is latched by R204. -/
theorem checkStepOutcome : Obligations.CheckStepOutcome := by
  intro s a as hc hr hp ha
  rw [step_check hr hp, checkStep, srcHdr, ha]
  cases a with
  | formatErr | ioErr => rfl
  | hdr w h =>
    refine (checkHeader_eq (s := { s with hdrAns := as }) hc w h).trans ?_
    rw [latchImage_eq (s := { s with hdrAns := as }) hc]

end

end Sys2Proof.Machine
end

section
/-! SUPPORT. The step at `BUSY` = 1 is blind to the request lines (R201, R92). -/

namespace Sys2Proof.Machine

/-- The state with these requests on the lines. -/
def State.withReqs (rs : List Request) (s : State) : State := { s with reqs := rs }

/-- The update does not look at the request lines and leaves them. -/
def ReqsKept (f : State → State) : Prop := ∀ rs s, f (s.withReqs rs) = (f s).withReqs rs

/-- The operation does not look at the request lines and leaves them. -/
def ReqsUnseen (f : State → Result) : Prop := ∀ rs s, f (s.withReqs rs) = mapNext (State.withReqs rs) (f s)

/-! ## Transactions -/

theorem chPut_reqsUnseen (b : Byte) {f : State → State} (hf : ReqsKept f) : ReqsUnseen (chPut b f) := by
  intro rs s
  have hans : (s.withReqs rs).chAns = s.chAns := rfl
  unfold chPut
  rw [hans]
  cases s.chAns with
  | nil => rfl
  | cons a as =>
    cases a with
    | ok => exact congrArg Host.Outcome.next (hf rs { s with chAns := as, out := s.out ++ [b], ch := s.ch ++ [b] })
    | chFail => rfl

theorem srcNext_reqsUnseen {f : Bool → State → Result} (hf : ∀ p, ReqsUnseen (f p)) : ReqsUnseen (srcNext f) := by
  intro rs s
  have hans : (s.withReqs rs).pxAns = s.pxAns := rfl
  unfold srcNext
  rw [hans]
  cases s.pxAns with
  | nil => rfl
  | cons a as =>
    cases a with
    | px p => exact hf p rs { s with pxAns := as, npx := s.npx + 1 }
    | eof | srcFail => rfl

theorem srcHdr_reqsUnseen {f : Nat → Nat → State → Result} (hf : ∀ w h, ReqsUnseen (f w h)) :
    ReqsUnseen (srcHdr f) := by
  intro rs s
  have hans : (s.withReqs rs).hdrAns = s.hdrAns := rfl
  unfold srcHdr
  rw [hans]
  cases s.hdrAns with
  | nil => rfl
  | cons a as =>
    cases a with
    | hdr w h => exact hf w h rs { s with hdrAns := as }
    | formatErr | ioErr => rfl

theorem emitByte_reqsUnseen (bs : List Byte) {f : State → State} (hf : ReqsKept f) : ReqsUnseen (emitByte bs f) := by
  intro rs s
  have hk : (s.withReqs rs).k = s.k := rfl
  unfold emitByte
  rw [hk]
  cases bs[s.k]? with
  | none => rfl
  | some b =>
    refine chPut_reqsUnseen b (fun rs t => ?_) rs s
    have hkt : (t.withReqs rs).k = t.k := rfl
    rw [hkt]
    split
    · exact hf rs { t with k := t.k + 1 }
    · rfl

/-! ## The phases -/

theorem checkStep_reqsUnseen : ReqsUnseen checkStep :=
  srcHdr_reqsUnseen fun w h rs s => by
    have hpre : precheck (s.withReqs rs).cfg (s.withReqs rs).res (s.withReqs rs).just w h =
      precheck s.cfg s.res s.just w h := rfl
    unfold checkHeader
    rw [hpre]
    cases precheck s.cfg s.res s.just w h <;> rfl

theorem ReqsKept.ite {c : State → Prop} [∀ s, Decidable (c s)] {f g : State → State}
    (hc : ∀ rs s, c (s.withReqs rs) ↔ c s) (hf : ReqsKept f) (hg : ReqsKept g) :
    ReqsKept fun s => if c s then f s else g s := by
  intro rs s
  by_cases h : c s
  · simp only [if_pos h, if_pos ((hc rs s).2 h), hf rs s]
  · simp only [if_neg h, if_neg (mt (hc rs s).1 h), hg rs s]

theorem advancePixel_reqsKept : ReqsKept advancePixel :=
  .ite (c := fun s => s.x + 1 = s.w) (fun _ _ => Iff.rfl)
    (.ite (c := fun s => s.i + 1 = s.rowh) (fun _ _ => Iff.rfl)
      (.ite (c := fun s => s.res = 0) (fun _ _ => Iff.rfl) (fun _ _ => rfl) fun _ _ => rfl) fun _ _ => rfl) fun _ _ => rfl

theorem advanceColumn_reqsKept : ReqsKept advanceColumn :=
  .ite (c := fun s => s.x + 1 = s.w) (fun _ _ => Iff.rfl) (fun _ _ => rfl) fun _ _ => rfl

theorem advanceBand_reqsKept : ReqsKept advanceBand :=
  .ite (c := fun s => s.y + s.rowh < s.h) (fun _ _ => Iff.rfl) (fun _ _ => rfl) fun _ _ => rfl

theorem advanceData_reqsKept : ReqsKept advanceData :=
  .ite (c := fun s => s.k + 1 = s.nbytes) (fun _ _ => Iff.rfl) (fun _ _ => rfl) fun _ _ => rfl

theorem memRead_withReqs (rs : List Request) (s : State) (a : Nat) : memRead (s.withReqs rs) a = memRead s a := rfl

theorem memWrite_withReqs (rs : List Request) (s : State) (a : Nat) (v : Byte) :
    memWrite (s.withReqs rs) a v = (memWrite s a v).map (State.withReqs rs) := by
  have hcfg : (s.withReqs rs).cfg = s.cfg := rfl
  unfold memWrite
  rw [hcfg]
  split <;> rfl

theorem pack_withReqs (rs : List Request) (s : State) (x i : Nat) (p : Bool) :
    pack x i p (s.withReqs rs) = (pack x i p s).map (State.withReqs rs) := by
  unfold pack
  rw [memRead_withReqs]
  cases memRead s (packAddr x i) with
  | error f => rfl
  | ok old => exact memWrite_withReqs rs s _ _

theorem packPixel_reqsUnseen (p : Bool) : ReqsUnseen (packPixel p) := by
  intro rs s
  have hpack : pack (s.withReqs rs).x (s.withReqs rs).i p (s.withReqs rs) = (pack s.x s.i p s).map (State.withReqs rs) :=
    pack_withReqs rs s s.x s.i p
  unfold packPixel
  rw [hpack]
  cases pack s.x s.i p s with
  | error f => rfl
  | ok t => exact congrArg Host.Outcome.next (advancePixel_reqsKept rs t)

theorem replicate_withReqs (rs : List Request) (s : State) (x : Nat) :
    replicate x (s.withReqs rs) = (replicate x s).map (State.withReqs rs) := by
  unfold replicate
  rw [memRead_withReqs]
  cases memRead s (Config.bpc * x) with
  | error f => rfl
  | ok v =>
    dsimp only
    rw [memWrite_withReqs]
    cases memWrite s (Config.bpc * x + 1) v with
    | error f => rfl
    | ok t => exact memWrite_withReqs rs t _ _

theorem replStep_reqsUnseen : ReqsUnseen replStep := by
  intro rs s
  have hrep : replicate (s.withReqs rs).x (s.withReqs rs) = (replicate s.x s).map (State.withReqs rs) :=
    replicate_withReqs rs s s.x
  unfold replStep
  rw [hrep]
  cases replicate s.x s with
  | error f => rfl
  | ok t => exact congrArg Host.Outcome.next (advanceColumn_reqsKept rs t)

theorem ReqsUnseen.ite {c : State → Prop} [∀ s, Decidable (c s)] {f g : State → Result}
    (hc : ∀ rs s, c (s.withReqs rs) ↔ c s) (hf : ReqsUnseen f) (hg : ReqsUnseen g) :
    ReqsUnseen fun s => if c s then f s else g s := by
  intro rs s
  by_cases h : c s
  · simp only [if_pos h, if_pos ((hc rs s).2 h), hf rs s]
  · simp only [if_neg h, if_neg (mt (hc rs s).1 h), hg rs s]

theorem fillStep_reqsUnseen : ReqsUnseen fillStep :=
  .ite (c := fun s => s.y + s.i < s.h) (fun _ _ => Iff.rfl) (srcNext_reqsUnseen packPixel_reqsUnseen)
    (packPixel_reqsUnseen false)

theorem emitBandByte_reqsUnseen (d : List Byte) : ReqsUnseen (emitBandByte d) := by
  refine .ite (c := fun s => s.k < s.cfg.bufBytes) (fun _ _ => Iff.rfl) (fun rs s => ?_) fun _ _ => rfl
  have hk : (s.withReqs rs).k = s.k := rfl
  rw [hk]
  cases d[s.k]? with
  | none => rfl
  | some b => exact chPut_reqsUnseen b advanceData_reqsKept rs s

/-! ## The step -/

/-- A step at `BUSY` = 1 does not look at the request lines and leaves them (R201). -/
theorem step_withReqs {s : State} (hr : s.rst = false) (hb : s.busy = true) (rs : List Request) :
    step (s.withReqs rs) = mapNext (State.withReqs rs) (step s) := by
  have hr' : (s.withReqs rs).rst = false := hr
  cases hp : s.phase with
  | idle | done | err => simp [State.busy, hp, Phase.quiescent] at hb
  | check =>
    rw [step_check hr hp, step_check hr' hp]
    exact checkStep_reqsUnseen rs s
  | setup =>
    rw [step_setup hr hp, step_setup hr' hp]
    exact emitByte_reqsUnseen (lspBytes s.cfg s.pitch) (fun _ _ => rfl) rs s
  | fill =>
    rw [step_fill hr hp, step_fill hr' hp]
    exact fillStep_reqsUnseen rs s
  | repl =>
    rw [step_repl hr hp, step_repl hr' hp]
    exact replStep_reqsUnseen rs s
  | padout =>
    rw [step_padout hr hp, step_padout hr' hp]
    have hcount : ReqsKept fun t => { t with k := t.k + 1 } := fun _ _ => rfl
    have hend : ReqsUnseen fun t => .next { t with k := 0, phase := .hdr } := fun _ _ => rfl
    exact ReqsUnseen.ite (c := fun t => t.k < t.pad) (f := fun t => chPut t.cfg.sp _ t) (fun _ _ => Iff.rfl)
      (fun rs t => chPut_reqsUnseen t.cfg.sp hcount rs t) hend rs s
  | hdr =>
    rw [step_hdr hr hp, step_hdr hr' hp]
    exact emitByte_reqsUnseen (bimgHeader s.cfg s.dens (BitVec.ofNat 16 s.cols)) (fun _ _ => rfl) rs s
  | data =>
    have hband : bandBytes (s.withReqs rs) = bandBytes s :=
      readRun_congr (s := s.withReqs rs) (t := s) rfl fun _ _ => rfl
    rw [step_data hr hp, step_data hr' hp, hband]
    exact emitBandByte_reqsUnseen (bandBytes s) rs s
  | trail =>
    rw [step_trail hr hp, step_trail hr' hp]
    exact emitByte_reqsUnseen (trailerBytes s.cfg) advanceBand_reqsKept rs s
  | restore =>
    rw [step_restore hr hp, step_restore hr' hp]
    exact emitByte_reqsUnseen (lspdBytes s.cfg) (fun _ _ => rfl) rs s
  | frame =>
    rw [step_frame hr hp, step_frame hr' hp]
    exact emitByte_reqsUnseen (frameBytes s.cfg s.fd) (fun _ _ => rfl) rs s

/-- Settles O18: a busy step is blind to the request lines, a quiescent one runs the first request (R201, R92). -/
theorem requestsHeldOffWhileBusy : Obligations.RequestsHeldOffWhileBusy :=
  ⟨fun _ rs hb hr => ⟨step_withReqs hr hb rs, fun _ h => (step_busy_inputs hr hb h).2⟩,
    fun _ _ _ _ hb hr hq hd => step_of_reqs hr hb hq hd⟩

/-- Settles O19: the request at `BUSY` = 0, and the emissions a conversion issues in `PADOUT`, `HDR` and `DATA` (R235,
R242). -/
theorem stepRunsTheDecodedInstruction : Obligations.StepRunsTheDecodedInstruction := by
  refine ⟨fun _ _ _ _ => step_of_reqs, fun s hr hp => ?_, fun s hr hp => ?_⟩
  · simp [step, hr, hp]
  · obtain hp | hp := hp <;> simp [step, hr, hp, bandInstr]

end Sys2Proof.Machine
end

section
/-! SUPPORT. What one step can do to the answers and to the stream (R200), and where `RESTORE` and `ERR` are entered from
(R216, R284). -/

namespace Sys2Proof.Machine

/-- Of what is seen, at most one answer is taken, from the front of its list, and at most one byte is written: the same one
to `OUT` and to the channel, with an answer of the channel. -/
def OneTransaction (s t : Observed) : Prop :=
  t.hdrAns <:+ s.hdrAns ∧ t.pxAns <:+ s.pxAns ∧ t.chAns <:+ s.chAns ∧
    s.hdrAns.length + s.pxAns.length + s.chAns.length ≤ t.hdrAns.length + t.pxAns.length + t.chAns.length + 1 ∧
    ((t.ch = s.ch ∧ (t.out = s.out ∨ t.out = [])) ∨
      ∃ b, t.ch = s.ch ++ [b] ∧ t.out = s.out ++ [b] ∧ t.chAns ≠ s.chAns)

namespace OneTransaction

variable {s t : Observed}

theorem none (hh : t.hdrAns = s.hdrAns) (hp : t.pxAns = s.pxAns) (ha : t.chAns = s.chAns) (hc : t.ch = s.ch)
    (ho : t.out = s.out ∨ t.out = []) : OneTransaction s t := by
  unfold OneTransaction
  rw [hh, hp, ha]
  exact ⟨List.suffix_rfl, List.suffix_rfl, List.suffix_rfl, Nat.le_succ _, .inl ⟨hc, ho⟩⟩

theorem header {a : HdrAnswer} (hh : s.hdrAns = a :: t.hdrAns) (hp : t.pxAns = s.pxAns) (ha : t.chAns = s.chAns)
    (hc : t.ch = s.ch) (ho : t.out = s.out) : OneTransaction s t := by
  unfold OneTransaction
  rw [hh, hp, ha, List.length_cons]
  exact ⟨List.suffix_cons _ _, List.suffix_rfl, List.suffix_rfl, by omega, .inl ⟨hc, .inl ho⟩⟩

theorem pixel {a : PxAnswer} (hh : t.hdrAns = s.hdrAns) (hp : s.pxAns = a :: t.pxAns) (ha : t.chAns = s.chAns)
    (hc : t.ch = s.ch) (ho : t.out = s.out) : OneTransaction s t := by
  unfold OneTransaction
  rw [hh, hp, ha, List.length_cons]
  exact ⟨List.suffix_rfl, List.suffix_cons _ _, List.suffix_rfl, by omega, .inl ⟨hc, .inl ho⟩⟩

theorem channel {a : ChAnswer} (hh : t.hdrAns = s.hdrAns) (hp : t.pxAns = s.pxAns) (ha : s.chAns = a :: t.chAns)
    (hs : (t.ch = s.ch ∧ t.out = s.out) ∨ ∃ b, t.ch = s.ch ++ [b] ∧ t.out = s.out ++ [b]) : OneTransaction s t := by
  unfold OneTransaction
  rw [hh, hp, ha, List.length_cons]
  refine ⟨List.suffix_rfl, List.suffix_rfl, List.suffix_cons _ _, by omega, ?_⟩
  obtain ⟨hc, ho⟩ | ⟨b, hc, ho⟩ := hs
  · exact .inl ⟨hc, .inl ho⟩
  · exact .inr ⟨b, hc, ho, (List.cons_ne_self _ _).symm⟩

end OneTransaction

/-- Settles O48: the one transaction, or none, of each kind of step. -/
theorem oneTransactionPerStep : Obligations.OneTransactionPerStep := by
  intro s t hr h
  show OneTransaction s.observe t.observe
  cases step_cases h with
  | reset hrst => simp [hr] at hrst
  | waits | paddingDone => exact .none rfl rfl rfl rfl (.inl rfl)
  | acceptEncode | acceptFrame => exact .none rfl rfl rfl rfl (.inr rfl)
  | headerRaises _ _ ha | headerPasses _ _ ha => exact .header ha rfl rfl rfl rfl
  | pixelRaises _ _ _ ha => exact .pixel rfl ha rfl rfl rfl
  | pixel _ _ _ ha hu =>
    rw [packedPixel_observe hu]
    exact .pixel rfl ha rfl rfl rfl
  | clearPixel _ _ _ hu =>
    rw [packedPixel_observe hu]
    exact .none rfl rfl rfl rfl (.inl rfl)
  | replicates _ _ hu =>
    rw [replicatedColumn_observe hu]
    exact .none rfl rfl rfl rfl (.inl rfl)
  | sent _ _ ha =>
    rw [afterSend_observe]
    exact .channel rfl rfl ha (.inr ⟨_, rfl, rfl⟩)
  | sendFails _ _ ha => exact .channel rfl rfl ha (.inl ⟨rfl, rfl⟩)

/-- `RESTORE` is entered after the last byte of the last band's trailer (R213 to R215). -/
theorem afterSend_phase_restore {s : State} (h : (afterSend s).phase = .restore) (hp : s.phase ≠ .restore) :
    s.phase = .trail ∧ s.k = 1 ∧ s.h ≤ s.y + s.rowh := by
  cases hphase : s.phase with
  | restore => exact absurd hphase hp
  | trail =>
    simp only [afterSend, hphase, afterByte, advanceBand] at h
    split_ifs at h with hlast hmore
    · exact absurd h nofun
    · exact ⟨rfl, Nat.succ_injective hlast, Nat.le_of_not_lt hmore⟩
  | idle | check | fill | repl | padout | done | err => simp [afterSend, hphase] at h
  | setup | hdr | frame =>
    simp only [afterSend, hphase, afterByte] at h
    split at h <;> exact absurd h nofun
  | data =>
    simp only [afterSend, hphase, advanceData] at h
    split at h <;> exact absurd h nofun

theorem packedPixel_phase_ne_restore {s u : State} {x i : Nat} {p : Bool} (hu : pack x i p s = .ok u)
    (hp : s.phase = .fill) : (advancePixel u).phase ≠ .restore := by
  obtain ⟨-, -, -, rfl⟩ := pack_ok.1 hu
  unfold advancePixel endFill
  split_ifs <;> simp [hp]

theorem replicatedColumn_phase_ne_restore {s u : State} {x : Nat} (hu : replicate x s = .ok u) (hp : s.phase = .repl) :
    (advanceColumn u).phase ≠ .restore := by
  obtain ⟨-, -, -, rfl⟩ := replicate_ok.1 hu
  unfold advanceColumn
  split <;> simp [hp]

/-- Settles O39: only the trailer's last byte leads to `RESTORE`, and no step that raises an error sends a byte. -/
theorem linePitchRestoredOnlyOnCompletion : Obligations.LinePitchRestoredOnlyOnCompletion := by
  intro s t h
  cases step_cases h with
  | reset | acceptEncode | acceptFrame | headerPasses | paddingDone => exact ⟨nofun, nofun⟩
  | waits => exact ⟨fun hp hne => absurd hp hne, fun _ _ => ⟨rfl, rfl⟩⟩
  | headerRaises | pixelRaises | sendFails => exact ⟨nofun, fun _ _ => ⟨rfl, rfl⟩⟩
  | pixel _ hp _ _ hu | clearPixel _ hp _ hu =>
    exact ⟨fun ht => absurd ht (packedPixel_phase_ne_restore hu hp),
      fun ht => absurd ht (packedPixel_phase_ne_err (by simp [hp]) hu)⟩
  | replicates _ hp hu =>
    exact ⟨fun ht => absurd ht (replicatedColumn_phase_ne_restore hu hp),
      fun ht => absurd ht (replicatedColumn_phase_ne_err (by simp [hp]) hu)⟩
  | sent => exact ⟨afterSend_phase_restore, fun ht hne => absurd ht (afterSend_phase_ne_err hne)⟩

end Sys2Proof.Machine
end

section
/-! SUPPORT. The command framer (`44_command_framer.md`): a request whose frame fits is accepted (R231) with the bytes of
its row (R240 to R259), and an accepted frame is emitted whole and alone (R232, R233). -/

namespace Sys2Proof.Machine

/-! ## The emission of a frame -/

section

variable {s : State} {b : Byte} {as : List ChAnswer}

/-- A byte of a frame that more bytes follow (R232). -/
theorem step_frame_midway (hr : s.rst = false) (hp : s.phase = .frame) (hb : (frameBytes s.cfg s.fd)[s.k]? = some b)
    (hk : s.k + 1 ≠ (frameBytes s.cfg s.fd).length) (ha : s.chAns = .ok :: as) :
    step s = .next { s with chAns := as, out := s.out ++ [b], ch := s.ch ++ [b], k := s.k + 1 } := by
  rw [step_frame hr hp, frameStep, emitByte_eq _ hb, chPut_ok _ _ ha]
  exact congrArg Host.Outcome.next (if_neg hk)

/-- The last byte of a frame, after which `PHASE` is `DONE` (R232). -/
theorem step_frame_last (hr : s.rst = false) (hp : s.phase = .frame) (hb : (frameBytes s.cfg s.fd)[s.k]? = some b)
    (hk : s.k + 1 = (frameBytes s.cfg s.fd).length) (ha : s.chAns = .ok :: as) :
    step s = .next
      { s with chAns := as, out := s.out ++ [b], ch := s.ch ++ [b], k := s.k + 1, phase := .done } := by
  rw [step_frame hr hp, frameStep, emitByte_eq _ hb, chPut_ok _ _ ha]
  exact congrArg Host.Outcome.next (if_pos hk)

/-- The bytes of a frame from `K` on are emitted one a step, and then `PHASE` is `DONE` (R232). -/
theorem runSteps_frame {todo : List Byte} (hr : s.rst = false) (hp : s.phase = .frame)
    (htodo : (frameBytes s.cfg s.fd).drop s.k = todo) (hne : todo ≠ [])
    (ha : s.chAns = List.replicate todo.length .ok ++ as) :
    runSteps todo.length s = .next
      { s with
        chAns := as, out := s.out ++ todo, ch := s.ch ++ todo, k := (frameBytes s.cfg s.fd).length
        phase := .done } := by
  induction todo generalizing s with
  | nil => exact absurd rfl hne
  | cons b todo ih =>
    have hb : (frameBytes s.cfg s.fd)[s.k]? = some b := by rw [← List.head?_drop, htodo, List.head?_cons]
    have hdrop : (frameBytes s.cfg s.fd).drop (s.k + 1) = todo := by rw [← List.tail_drop, htodo, List.tail_cons]
    have hlen : (frameBytes s.cfg s.fd).length - s.k = todo.length + 1 := by
      rw [← List.length_drop, htodo, List.length_cons]
    cases todo with
    | nil =>
      have hk : s.k + 1 = (frameBytes s.cfg s.fd).length := by simp only [List.length_nil] at hlen; omega
      simp only [List.length_cons, List.length_nil, runSteps, step_frame_last hr hp hb hk ha, ← hk]
      rfl
    | cons c todo =>
      have hk : s.k + 1 ≠ (frameBytes s.cfg s.fd).length := by rw [List.length_cons] at hlen; omega
      have hrun := ih (s := { s with chAns := _, out := s.out ++ [b], ch := s.ch ++ [b], k := s.k + 1 })
        hr hp hdrop (List.cons_ne_nil c todo) rfl
      simp only [List.append_assoc, List.singleton_append] at hrun
      rw [List.length_cons, runSteps, step_frame_midway hr hp hb hk ha]
      exact hrun

end

/-! ## Acceptance -/

/-- Settles O8: a `FRAME` is the request of its frame, which fits. -/
theorem frameAccepted : Obligations.FrameAccepted := fun _ pfx code par zt hb hc hf =>
  requestFrame_accepts (fd := ⟨pfx, code, par, zt⟩) hb hc hf

/-- Settles O38: one step accepts the request, and each further one emits a byte of its frame. -/
theorem frameRequestEmitsItsFrame : Obligations.FrameRequestEmitsItsFrame := by
  intro s pfx code par zt rest cs hr hb hc hf hq bytes ha
  have hbytes : frameBytes s.cfg ⟨pfx, code, par, zt⟩ = bytes := by cases pfx <;> rfl
  have haccept : step s = .next (latchFrame ⟨pfx, code, par, zt⟩ { s with reqs := rest }) :=
    (step_of_reqs hr hb hq rfl).trans (frameAccepted { s with reqs := rest } pfx code par zt hb hc hf)
  have hrun := runSteps_frame (s := latchFrame ⟨pfx, code, par, zt⟩ { s with reqs := rest }) hr rfl hbytes
    (List.cons_ne_nil _ _) ha
  rw [Nat.add_comm, runSteps, haccept]
  exact hbytes ▸ hrun

section

variable {s : State}

/-- At least one parameter byte fits (R6). -/
theorem one_le_frameMax {c : Config} (hc : c.wf = true) : 1 ≤ c.frameMax := by
  obtain ⟨-, -, -, -, -, -, hmax⟩ := (Config_wf_iff c).1 hc
  exact Nat.pos_of_ne_zero hmax

theorem wellFormed_bcode_iff (c : Config) (m : Byte) (payload : List Byte) :
    (Instr.bcode m payload).wellFormed c = true ↔
      (∀ b ∈ payload, 1 ≤ b.toNat ∧ b.toNat ≤ 0x7F) ∧ 1 + payload.length ≤ c.frameMax := by
  simp [Instr.wellFormed, payloadByte]

/-- The frame of a named request inside its domain fits (R107, R259). -/
theorem namedDescriptor_fits {c : Config} {i : Instr} {fd : FrameDesc} (hc : c.wf = true)
    (hfd : namedDescriptor c i = some fd) (hw : i.wellFormed c = true) : fd.par.length ≤ c.frameMax := by
  cases i with
  | encode | frame | bimg | padrun => cases hfd
  | lspd | buzz =>
    cases hfd
    exact Nat.zero_le _
  | bcode m payload =>
    cases hfd
    obtain ⟨-, hlen⟩ := (wellFormed_bcode_iff c m payload).1 hw
    exact (Nat.add_comm _ 1).trans_le hlen
  | lsp | pcut | ul | chsz | font | dblp | emph | inv | mirr | rot | bcw | bch | bctp =>
    cases hfd
    exact one_le_frameMax hc

/-- A named request inside its domain is accepted with the bytes of its row (R104, R110, R231). -/
theorem acceptedAsFrame_named {i : Instr} {fd : FrameDesc} (hb : s.busy = false) (hc : s.cfg.wf = true)
    (hfd : namedDescriptor s.cfg i = some fd) (hw : i.wellFormed s.cfg = true) :
    AcceptedAsFrame i s (wireBytes s.cfg i) :=
  ⟨fd, (wireBytes_named hfd).symm,
    (exec_named hfd hw).trans (requestFrame_accepts hb hc (namedDescriptor_fits hc hfd hw))⟩

/-- Settles O10: neither request has a domain. -/
theorem lineSpacingRequestsAccepted : Obligations.LineSpacingRequestsAccepted := fun _ hb hc =>
  ⟨fun n => acceptedAsFrame_named (i := .lsp n) hb hc rfl rfl, acceptedAsFrame_named (i := .lspd) hb hc rfl rfl⟩

/-- Settles O11: none of the eight requests has a domain. -/
theorem toggleRequestsAccepted : Obligations.ToggleRequestsAccepted := fun _ hb hc =>
  ⟨acceptedAsFrame_named (i := .buzz) hb hc rfl rfl, acceptedAsFrame_named (i := .pcut) hb hc rfl rfl, fun m =>
    ⟨acceptedAsFrame_named (i := .font m) hb hc rfl rfl, acceptedAsFrame_named (i := .dblp m) hb hc rfl rfl,
      acceptedAsFrame_named (i := .emph m) hb hc rfl rfl, acceptedAsFrame_named (i := .inv m) hb hc rfl rfl,
      acceptedAsFrame_named (i := .mirr m) hb hc rfl rfl, acceptedAsFrame_named (i := .rot m) hb hc rfl rfl⟩⟩

/-- Settles O12: none of the three requests has a domain. -/
theorem barcodeSettingsAccepted : Obligations.BarcodeSettingsAccepted := fun _ hb hc v =>
  ⟨acceptedAsFrame_named (i := .bcw v) hb hc rfl rfl, acceptedAsFrame_named (i := .bch v) hb hc rfl rfl,
    acceptedAsFrame_named (i := .bctp v) hb hc rfl rfl⟩

/-! ## Requests with a domain -/

/-- Settles O13: the three digits are the domain of `UL`; `FRAME` has no domain but its length. -/
theorem underlineDomain : Obligations.UnderlineDomain := fun s m hb hc =>
  ⟨fun hm => acceptedAsFrame_named (i := .ul m) hb hc rfl ((underlineDomain_iff m).2 hm),
    fun hm => (exec_refused_iff (i := .ul m) hb hc).2 ⟨rfl, hm⟩,
    ⟨.esc, 0x2D, [m], false⟩, rfl, frameAccepted s .esc 0x2D [m] false hb hc (one_le_frameMax hc)⟩

/-- The parameter byte of `CHSZ` as one number (R102). -/
theorem chszParam_eq {hmag vmag : Nat} (hh : hmag ≤ 16) (hv : vmag ≤ 16) :
    chszParam hmag vmag = BitVec.ofNat 8 ((hmag - 1) <<< 4 ||| (vmag - 1)) := by
  apply BitVec.eq_of_toNat_eq
  rw [chszParam_toNat hh hv, shiftLeft_four_or _ (by omega), BitVec.toNat_ofNat]
  omega

/-- Settles O14: the operands 1 to 16 are the domain of `CHSZ`. -/
theorem characterSizeDomain : Obligations.CharacterSizeDomain := by
  intro s hmag vmag hb hc
  split
  · next hdom =>
    have ⟨_, hh, _, hv⟩ := hdom
    rw [← chszParam_eq hh hv]
    exact acceptedAsFrame_named (i := .chsz hmag vmag) hb hc rfl ((magDomains_iff hmag vmag).2 hdom)
  · next hdom => exact (exec_refused_iff (i := .chsz hmag vmag) hb hc).2 ⟨rfl, hdom⟩

/-- Settles O15: the payloads of bytes 0x01 to 0x7F that fit are the domain of `BCODE`. -/
theorem barcodePayloadDomain : Obligations.BarcodePayloadDomain := by
  intro s m payload hb hc
  split
  · next hdom =>
    exact acceptedAsFrame_named (i := .bcode m payload) hb hc rfl ((wellFormed_bcode_iff s.cfg m payload).2 hdom)
  · next hdom => exact (exec_refused_iff (i := .bcode m payload) hb hc).2 ⟨rfl, hdom⟩

end

end Sys2Proof.Machine
end

section
/-! SUPPORT. The error kinds (`60_exceptions.md`): what raising one writes and that `ERR` makes no transaction (R284),
and the phases each code comes from (R280). -/

namespace Sys2Proof.Machine

/-! ## Raising an error, and `ERR` -/

theorem emitted_eq_none_of_err {s : State} (hp : s.phase = .err) : emitted s = none := by simp [emitted, hp]

/-- Settles O41: a step from `ERR` resets, waits or accepts a request; every transaction belongs to another phase. -/
theorem raiseEffect : Obligations.RaiseEffect := by
  refine ⟨fun s => ⟨rfl, rfl, rfl, rfl⟩, fun s t hp h => ?_⟩
  cases step_cases h with
  | reset | waits | acceptEncode | acceptFrame => exact ⟨rfl, rfl, rfl, rfl⟩
  | headerRaises _ hphase | headerPasses _ hphase | pixelRaises _ hphase | pixel _ hphase | clearPixel _ hphase
  | replicates _ hphase | paddingDone _ hphase => simp [hp] at hphase
  | sent _ hb | sendFails _ hb => simp [emitted_eq_none_of_err hp] at hb

/-! ## The phases of each code -/

/-- A phase that writes a byte is none of `IDLE`, `DONE`, `REPL`. -/
theorem phase_of_emitted {s : State} {b : Byte} (h : emitted s = some b) :
    s.phase ≠ .idle ∧ s.phase ≠ .done ∧ s.phase ≠ .repl := by
  refine ⟨?_, ?_, ?_⟩ <;> intro hp <;> simp [emitted, hp] at h

/-- Settles O42: a header answer raises in `CHECK`, where every code is allowed; a pixel answer raises code 1 or 4 in
`FILL`; a channel failure raises code 4 in a phase that writes; no other step enters `ERR`. -/
theorem errorsComeFromTheirPhases : Obligations.ErrorsComeFromTheirPhases := by
  intro s t _ hr h hne ht
  cases step_cases h with
  | reset hrst => simp [hr] at hrst
  | waits => exact absurd ht hne
  | acceptEncode | acceptFrame | headerPasses | paddingDone => exact absurd ht nofun
  | @headerRaises _ _ e _ hp =>
    cases e with
    | formatError => exact .inl ⟨rfl, .inl hp⟩
    | unsupportedModeError => exact .inr (.inl ⟨rfl, hp⟩)
    | sizeLimitError => exact .inr (.inr (.inl ⟨rfl, hp⟩))
    | ioError => exact .inr (.inr (.inr ⟨rfl, by simp [hp]⟩))
  | pixelRaises _ hp _ _ he =>
    obtain ⟨-, rfl⟩ | ⟨-, rfl⟩ := he
    · exact .inl ⟨rfl, .inr hp⟩
    · exact .inr (.inr (.inr ⟨rfl, by simp [hp]⟩))
  | sendFails _ hb => exact .inr (.inr (.inr ⟨rfl, phase_of_emitted hb⟩))
  | pixel _ hp _ _ hu | clearPixel _ hp _ hu => exact absurd ht (packedPixel_phase_ne_err (by simp [hp]) hu)
  | replicates _ hp hu => exact absurd ht (replicatedColumn_phase_ne_err (by simp [hp]) hu)
  | sent => exact absurd ht (afterSend_phase_ne_err hne)

end Sys2Proof.Machine
end

section
/-! SUPPORT. A state in range never faults (R64, R321): the requests make no access to `BUF`, a byte to write is there, and
the bytes `FILL` and `REPL` touch are in `BUF` and hold a value. -/

namespace Sys2Proof.Machine

/-! ## Requests -/

theorem requestFrame_ne_fault (fd : FrameDesc) (s : State) (f : Fault) : requestFrame fd s ≠ .fault f := by
  unfold requestFrame whenIdle
  dsimp only
  split_ifs <;> exact nofun

/-- On a quiescent machine no instruction faults: it is accepted or refused. -/
theorem exec_ne_fault {s : State} (hb : s.busy = false) (i : Instr) (f : Fault) : exec i s ≠ .fault f := by
  cases i with
  | encode r j =>
    simp only [exec, execEncode, whenIdle]
    split_ifs <;> exact nofun
  | frame | lsp | lspd | buzz | pcut | font | dblp | emph | inv | mirr | rot | bcw | bch | bctp =>
    exact requestFrame_ne_fault _ s f
  | ul | chsz | bcode =>
    simp only [exec, execUl, execChsz, execBcode]
    split
    · exact requestFrame_ne_fault _ s f
    · exact nofun
  | bimg =>
    rw [exec_bimg_quiescent hb]
    exact nofun
  | padrun =>
    rw [exec_padrun_quiescent hb]
    exact nofun

theorem step_quiescent_ne_fault {s : State} (hr : s.rst = false) (hb : s.busy = false) (f : Fault) :
    step s ≠ .fault f := by
  cases hq : s.reqs with
  | nil =>
    rw [step_of_no_reqs hr hb hq]
    exact nofun
  | cons q rest =>
    cases hd : decode s.cfg q with
    | ok i =>
      rw [step_of_reqs hr hb hq hd]
      exact exec_ne_fault (s := { s with reqs := rest }) hb i f
    | error e =>
      rw [step_quiescent hr hb]
      simp [fetch, hq, hd]

/-! ## The steps of an operation -/

theorem chPut_ne_fault (b : Byte) (cont : State → State) (s : State) (f : Fault) : chPut b cont s ≠ .fault f := by
  unfold chPut
  split <;> exact nofun

theorem checkHeader_ne_fault (w h : Nat) (s : State) (f : Fault) : checkHeader w h s ≠ .fault f := by
  unfold checkHeader
  split <;> exact nofun

theorem checkStep_ne_fault (s : State) (f : Fault) : checkStep s ≠ .fault f := by
  unfold checkStep
  obtain ⟨-, h⟩ | ⟨w, hh, as, -, h⟩ | ⟨as, -, h⟩ | ⟨as, -, h⟩ := srcHdr_cases checkHeader s <;> rw [h]
  case inr.inl => exact checkHeader_ne_fault w hh _ f
  all_goals exact nofun

/-- In `FILL` the byte of the pixel at (`X`, `I`) is in `BUF` and holds a value (R62, R183). -/
theorem Inv.pixel_byte {s : State} (hs : Inv s) (hp : s.phase = .fill) :
    packAddr s.x s.i < s.cfg.bufBytes ∧ ∃ old, s.buf.read (packAddr s.x s.i) = some old := by
  obtain ⟨hregs, -, hi, hx, hw⟩ := hs.fill_ranges hp
  have hlt := packAddr_lt hregs hi hx
  exact ⟨hlt.trans_le (hregs.nbytes_le hs.config), Option.isSome_iff_exists.1 (hw _ hlt)⟩

/-- In `REPL` the three bytes of column `X` are in `BUF`, and the first holds a value (R181, R183). -/
theorem Inv.column_byte {s : State} (hs : Inv s) (hp : s.phase = .repl) :
    3 * s.x + 2 < s.cfg.bufBytes ∧ ∃ v, s.buf.read (3 * s.x) = some v := by
  have hR := hs.ranges
  simp only [PhaseRanges, hp] at hR
  obtain ⟨hregs, -, -, hx, hw⟩ := hR
  have hband := hregs.nbytes_le hs.config
  have hn := hregs.nbytes
  exact ⟨by omega, Option.isSome_iff_exists.1 (hw _ (by omega))⟩

theorem fillStep_ne_fault {s : State} (hs : Inv s) (hp : s.phase = .fill) (f : Fault) : fillStep s ≠ .fault f := by
  obtain ⟨hfit, old, hold⟩ := hs.pixel_byte hp
  unfold fillStep
  split
  · obtain ⟨-, h⟩ | ⟨p, as, -, h⟩ | ⟨as, -, h⟩ | ⟨as, -, h⟩ := srcNext_cases packPixel s <;> rw [h]
    case inr.inl =>
      rw [packPixel_eq (s := { s with pxAns := as, npx := s.npx + 1 }) p hfit hold]
      exact nofun
    all_goals exact nofun
  · rw [packPixel_eq false hfit hold]
    exact nofun

theorem step_repl_ne_fault {s : State} (hs : Inv s) (hr : s.rst = false) (hp : s.phase = .repl) (f : Fault) :
    step s ≠ .fault f := by
  obtain ⟨hfit, v, hv⟩ := hs.column_byte hp
  obtain ⟨t, ht, -⟩ := replicationStep s v hr hp hfit hv
  rw [ht]
  exact nofun

/-- Settles O52: the reset and the requests touch no byte of `BUF`, a step that writes a byte has it, and the silent steps
find theirs. -/
theorem noStepFaults : Obligations.NoStepFaults := by
  intro s f hs
  cases hr : s.rst with
  | true =>
    rw [step_reset hr]
    exact nofun
  | false =>
    cases hb : s.busy with
    | false => exact step_quiescent_ne_fault hr hb f
    | true =>
      cases he : emitted s with
      | some b =>
        rw [step_of_emitted hr he]
        exact chPut_ne_fault b afterSend s f
      | none =>
        obtain hp | hp | hp | ⟨hp, hk⟩ := silent_phases hb hs.config hs.ranges he
        · rw [step_check hr hp]
          exact checkStep_ne_fault s f
        · rw [step_fill hr hp]
          exact fillStep_ne_fault hs hp f
        · exact step_repl_ne_fault hs hr hp f
        · rw [step_padout hr hp, if_neg (Nat.not_lt.2 hk)]
          exact nofun

end Sys2Proof.Machine
end

section
/-! SUPPORT. Reset (R320, R322), and that the environment's moves (R342) touch nothing the invariant speaks of. -/

namespace Sys2Proof.Machine

/-! ## Reset -/

/-- Settles O44: `BUF` lists no byte, so a read in its bounds finds no value. -/
theorem resetState : Obligations.ResetState := by
  refine ⟨rfl, rfl, rfl, rfl, fun a => ?_⟩
  unfold memRead
  split
  · exact ⟨.bufUnwritten, rfl⟩
  · exact ⟨.bufIndexOutOfRange, rfl⟩

/-- Settles O45: with the wire set the step is the reset, whatever runs. -/
theorem resetWireAbandonsTheOperation : Obligations.ResetWireAbandonsTheOperation := fun s h =>
  ⟨applyReset s, step_reset h, rfl, rfl, rfl, rfl, fun _ => rfl, rfl, rfl, rfl, rfl, rfl, rfl, rfl⟩

/-- The configuration of R6 is well formed (R7), whatever the open parameters are. -/
theorem device_wf : Config.device.wf = true :=
  (Config_wf_iff _).2 ⟨by decide, by decide, by decide, rfl, by decide, by decide, Nat.succ_ne_zero _⟩

/-- Settles O49: after reset no error is recorded, `BUF` is empty, and `IDLE` has no ranges. -/
theorem resetMeetsTheInvariant : Obligations.ResetMeetsTheInvariant :=
  ⟨device_wf, statusLegal_of_clear nofun rfl, ⟨Memory.reset_wf, nofun⟩, trivial⟩

/-! ## The environment's moves -/

/-- `t` differs from `s` at most in what belongs to other agents: the wire, the requests, the answers to come, and what the
printer received. -/
def EnvironmentMove (s t : State) : Prop :=
  t = { s with
    rst := t.rst, reqs := t.reqs, hdrAns := t.hdrAns, pxAns := t.pxAns, chAns := t.chAns, ch := t.ch }

theorem environmentMove_of_envMove {m : EnvMove} {s t : State} (h : envMove m s = some t) : EnvironmentMove s t := by
  cases m with
  | hostWrite b =>
    simp only [envMove] at h
    split at h
    · cases h
    · cases h
      rfl
  | _ =>
    cases h
    rfl

theorem PhaseRanges.environmentMove {s t : State} (h : PhaseRanges s) (hm : EnvironmentMove s t) : PhaseRanges t := by
  unfold EnvironmentMove at hm
  rw [hm]
  cases hp : s.phase with
  | idle | check | done | err => simp only [PhaseRanges]
  | frame => simpa only [PhaseRanges, hp] using h
  | _ =>
    simp only [PhaseRanges, hp] at h ⊢
    exact h.imp_left fun hr => hr.move rfl hr.band

/-- A move of the environment keeps the invariant. -/
theorem Inv.environmentMove {s t : State} (h : Inv s) (hm : EnvironmentMove s t) : Inv t := by
  refine ⟨?_, ?_, ?_, h.ranges.environmentMove hm⟩ <;> unfold EnvironmentMove at hm <;> rw [hm]
  · exact h.config
  · exact ⟨h.status.code_range, h.status.err_iff, h.status.logged⟩
  · exact h.buffer.congr rfl rfl

/-- Settles O51: by induction over the session, whose moves each keep the invariant. -/
theorem sessionsKeepTheInvariant : Obligations.SessionsKeepTheInvariant := by
  intro s t hs h
  induction h with
  | refl => exact hs
  | step _ hstep ih => exact stepKeepsTheInvariant _ _ ih hstep
  | env m _ hm ih => exact ih.environmentMove (environmentMove_of_envMove hm)

end Sys2Proof.Machine
end

section
/-! SUPPORT. An operation whose transactions are answered goes on until it ends (R341): the bytes it may still write, and
between two of them the tiler's steps, run out. -/

namespace Sys2Proof.Machine

/-! ## The measure -/

/-- The operation runs, and has its checks behind it if it is a conversion. -/
def Running (s : State) : Prop := s.phase.converting = true ∨ s.phase = .frame

/-- A bound of the bytes the operation will still write: in a conversion the rest of `LSP` or of the band's unit, a unit
for each row at or below the band's first (R215: `Y` grows by at least one), and `LSPD`. -/
def bytesToCome (s : State) : Nat :=
  match s.phase with
  | .setup => 3 - s.k + (s.h - s.y) * unitLength s + 2
  | .fill | .repl => (s.h - s.y) * unitLength s + 2
  | .padout => (s.h - s.y) * unitLength s + 2 - s.k
  | .hdr => (s.h - s.y) * unitLength s + 2 - (s.pad + s.k)
  | .data => (s.h - s.y) * unitLength s + 2 - (s.pad + 5 + s.k)
  | .trail => (s.h - s.y) * unitLength s + 2 - (s.pad + 5 + s.nbytes + s.k)
  | .restore => 2 - s.k
  | .frame => (frameBytes s.cfg s.fd).length - s.k
  | .idle | .check | .done | .err => 0

/-- The measure that every answered step of an operation decreases: the bytes to come, and then the tiler's steps. -/
def stepsToEnd (s : State) : Nat := bytesToCome s * (25 * s.w + 4) + tilerSteps s

section

variable {s t : State}

theorem tilerSteps_lt_of_ranges (hR : PhaseRanges s) : tilerSteps s < 25 * s.w + 4 := by
  unfold tilerSteps
  split
  · next hp =>
    simp only [PhaseRanges, hp] at hR
    obtain ⟨hregs, -⟩ := hR
    have := Nat.mul_le_mul_right s.w (hregs.rowh ▸ rowhOf_le s.res)
    omega
  all_goals omega

/-- A byte fewer outweighs the tiler's steps. -/
theorem stepsToEnd_lt_of_bytes (hw : t.w = s.w) (hR : PhaseRanges t) (h : bytesToCome t < bytesToCome s) :
    stepsToEnd t < stepsToEnd s := by
  have htiler := tilerSteps_lt_of_ranges hR
  rw [hw] at htiler
  unfold stepsToEnd
  rw [hw]
  exact (rowMajor_lt htiler h).trans_le (Nat.le_add_right _ _)

theorem stepsToEnd_lt_of_tiler (hw : t.w = s.w) (hb : bytesToCome t = bytesToCome s)
    (h : tilerSteps t < tilerSteps s) : stepsToEnd t < stepsToEnd s := by
  unfold stepsToEnd
  rw [hw, hb]
  exact Nat.add_lt_add_left h _

/-! ## The steps -/

theorem bytesToCome_packedPixel {x i : Nat} {p : Bool} (hu : pack x i p s = .ok t) (hp : s.phase = .fill) :
    bytesToCome (advancePixel t) = bytesToCome s := by
  obtain ⟨-, _, -, rfl⟩ := pack_ok.1 hu
  unfold advancePixel endFill
  split_ifs <;> simp [bytesToCome, unitLength, hp]

theorem bytesToCome_replicatedColumn {x : Nat} (hu : replicate x s = .ok t) (hp : s.phase = .repl) :
    bytesToCome (advanceColumn t) = bytesToCome s := by
  obtain ⟨-, _, -, rfl⟩ := replicate_ok.1 hu
  unfold advanceColumn
  split_ifs <;> simp [bytesToCome, unitLength, hp]

/-- The next band begins with a unit fewer to come, and so does `LSPD` after the last one (R214, R215). -/
theorem bytesToCome_advanceBand (hpos : 0 < s.rowh) (hy : s.y < s.h) :
    bytesToCome (advanceBand s) + unitLength s ≤ (s.h - s.y) * unitLength s + 2 := by
  have hrows : s.h - (s.y + s.rowh) + 1 ≤ s.h - s.y := by omega
  have hunits := Nat.mul_le_mul_right (unitLength s) hrows
  rw [Nat.succ_mul] at hunits
  unfold advanceBand
  split
  · show (s.h - (s.y + s.rowh)) * unitLength s + 2 + unitLength s ≤ _
    omega
  · show 2 - 0 + unitLength s ≤ _
    omega

/-- A written byte is one fewer to come, in every phase: `K` counts it, or the part it ends is behind. -/
theorem bytesToCome_afterSend {b : Byte} (as : List ChAnswer) (hb : emitted s = some b) (hR : PhaseRanges s) :
    bytesToCome (afterSend { s with chAns := as, out := s.out ++ [b], ch := s.ch ++ [b] }) < bytesToCome s := by
  have hunit : s.y < s.h → s.pad + 5 + s.nbytes + 2 ≤ (s.h - s.y) * (s.pad + 5 + s.nbytes + 2) := fun hy =>
    Nat.le_mul_of_pos_left _ (Nat.sub_pos_of_lt hy)
  cases hp : s.phase with
  | idle | check | fill | repl | done | err => simp [emitted, hp] at hb
  | setup =>
    simp only [PhaseRanges, hp] at hR
    simp only [afterSend, afterByte]
    split <;> simp only [bytesToCome, unitLength, startBand, hp] <;> omega
  | padout =>
    have hk := lt_pad_of_emitted hp hb
    simp only [PhaseRanges, hp] at hR
    obtain ⟨-, hy, -⟩ := hR
    have := hunit hy
    simp only [afterSend, bytesToCome, unitLength, hp]
    omega
  | hdr =>
    simp only [PhaseRanges, hp] at hR
    obtain ⟨-, hy, hk, -⟩ := hR
    have := hunit hy
    simp only [afterSend, afterByte]
    split <;> simp only [bytesToCome, unitLength, endHeader, hp] <;> omega
  | data =>
    simp only [PhaseRanges, hp] at hR
    obtain ⟨-, hy, hk, -⟩ := hR
    have := hunit hy
    simp only [afterSend, advanceData]
    split <;> simp only [bytesToCome, unitLength, hp] <;> omega
  | trail =>
    simp only [PhaseRanges, hp] at hR
    obtain ⟨hregs, hy, hk, -⟩ := hR
    have := hunit hy
    simp only [afterSend, afterByte]
    split
    · have hnext := bytesToCome_advanceBand
        (s := { s with phase := .trail, chAns := as, out := s.out ++ [b], ch := s.ch ++ [b], k := s.k + 1 })
        (hregs.rowh ▸ rowhOf_pos s.res) hy
      simp only [unitLength, hp, bytesToCome] at hnext ⊢
      omega
    · simp only [bytesToCome, unitLength, hp]
      omega
  | restore | frame =>
    simp only [PhaseRanges, hp] at hR
    simp only [afterSend, afterByte]
    split <;> simp only [bytesToCome, hp] <;> omega

/-- A written byte leaves the operation running, but for the last one of `LSPD` or of a host frame (R216, R232). -/
theorem afterSend_running (h : Running s) : Running (afterSend s) ∨ (afterSend s).phase = .done := by
  obtain hp | hp := h
  · obtain hp' | ⟨-, -, hdone⟩ := afterSend_converting hp
    · exact .inl (.inl hp')
    · exact .inr hdone
  · simp only [afterSend, hp, afterByte]
    split
    · exact .inr rfl
    · exact .inl (.inr rfl)

/-- The operation is over (R27). -/
def Ended (s : State) : Prop := s.phase = .done ∨ s.phase = .err

theorem Running.busy (h : Running s) : s.busy = true := by
  obtain hp | hp := h
  · exact busy_of_converting hp
  · exact busy_of_phase hp rfl

theorem Running.phase_ne_check (h : Running s) : s.phase ≠ .check := fun hp => by
  simp [Running, hp, Phase.converting] at h

theorem running_of_busy (hb : s.busy = true) (hcheck : s.phase ≠ .check) : Running s := by
  cases hp : s.phase with
  | idle | done | err => simp [State.busy, hp, Phase.quiescent] at hb
  | check => exact absurd hp hcheck
  | frame => exact .inr hp
  | setup | fill | repl | padout | hdr | data | trail | restore => exact .inl (by rw [hp]; rfl)

/-- A step of a running operation waits for an answer, ends it, or leaves less of it. -/
theorem Running.step (h : Running s) (hs : Inv s) (hr : s.rst = false) (hstep : Machine.step s = .next t) :
    Waiting s ∨ Ended t ∨ Running t ∧ stepsToEnd t < stepsToEnd s := by
  have hw : t.w = s.w := ((latchedRegistersAreStable s t hstep).2.2 hr h.phase_ne_check).1
  have hrange := (stepKeepsTheInvariant s t hs hstep).ranges
  have hR := hs.ranges
  cases step_cases hstep with
  | reset hrst => simp [hr] at hrst
  | waits _ hwait => exact .inl hwait
  | acceptEncode _ hb | acceptFrame _ hb => simp [h.busy] at hb
  | headerRaises _ hp | headerPasses _ hp => exact absurd hp h.phase_ne_check
  | pixelRaises | sendFails => exact .inr (.inl (.inr rfl))
  | pixel _ hp _ _ hu | clearPixel _ hp _ hu =>
    obtain ⟨-, -, hi, hx, -⟩ := hs.fill_ranges hp
    have hbytes := bytesToCome_packedPixel hu hp
    have htiler := tilerSteps_packedPixel hu hp (rowMajor_lt hx hi)
    exact .inr (.inr ⟨.inl (packedPixel_converting hu hp), stepsToEnd_lt_of_tiler hw hbytes htiler⟩)
  | replicates _ hp hu =>
    simp only [PhaseRanges, hp] at hR
    obtain ⟨-, -, -, hx, -⟩ := hR
    have hbytes := bytesToCome_replicatedColumn hu hp
    have htiler := tilerSteps_replicatedColumn hu hp hx
    exact .inr (.inr ⟨.inl (replicatedColumn_converting hu hp), stepsToEnd_lt_of_tiler hw hbytes htiler⟩)
  | paddingDone _ hp hk =>
    simp only [PhaseRanges, hp] at hR
    obtain ⟨-, -, hle, -⟩ := hR
    refine .inr (.inr ⟨.inl rfl, stepsToEnd_lt_of_tiler hw ?_ (by simp [tilerSteps, hp])⟩)
    simp [bytesToCome, unitLength, hp, Nat.le_antisymm hle hk]
  | @sent b as _ hb _ =>
    obtain hrun | hdone := afterSend_running (s := { s with chAns := as, out := s.out ++ [b], ch := s.ch ++ [b] }) h
    · exact .inr (.inr ⟨hrun, stepsToEnd_lt_of_bytes hw hrange (bytesToCome_afterSend as hb hR)⟩)
    · exact .inr (.inl (.inl hdone))

/-- In range every step of a running operation has a next state (R321, R155). -/
theorem Running.step_next (h : Running s) (hs : Inv s) (hr : s.rst = false) : ∃ t, Machine.step s = .next t := by
  cases hstep : Machine.step s with
  | next t => exact ⟨t, rfl⟩
  | fault f => exact absurd hstep (noStepFaults s f hs)
  | refused r => exact absurd hstep (step_busy_ne_refused hs hr h.busy h.phase_ne_check r)

/-! ## Enough answers -/

theorem Running.not_waiting (h : Running s) (hp : s.pxAns ≠ []) (hc : s.chAns ≠ []) : ¬Waiting s := by
  cases hphase : s.phase with
  | idle | check | done | err => simp [Running, hphase, Phase.converting] at h
  | _ => simp [Waiting, hphase, hp, hc]

/-- A running operation in range that has an answer of the source and one of the channel for every step left. -/
structure Answered (s : State) : Prop where
  inv : Inv s
  rst : s.rst = false
  running : Running s
  pixels : stepsToEnd s < s.pxAns.length
  sends : stepsToEnd s < s.chAns.length

/-- A step takes at most one answer of each kind, so there is still one for every step left, or the operation is over. -/
theorem Answered.step (h : Answered s) :
    ∃ t, Machine.step s = .next t ∧ (Ended t ∨ Answered t ∧ stepsToEnd t < stepsToEnd s) := by
  obtain ⟨hs, hr, hrun, hpx, hch⟩ := h
  have hwait := hrun.not_waiting (List.ne_nil_of_length_pos (Nat.zero_lt_of_lt hpx))
    (List.ne_nil_of_length_pos (Nat.zero_lt_of_lt hch))
  obtain ⟨t, ht⟩ := hrun.step_next hs hr
  refine ⟨t, ht, ?_⟩
  obtain hw | hend | ⟨hrun', hlt⟩ := hrun.step hs hr ht
  · exact absurd hw hwait
  · exact .inl hend
  · obtain ⟨hh, hp, hc, hone, -⟩ := oneTransactionPerStep s t hr ht
    have := hh.length_le
    have := hp.length_le
    have := hc.length_le
    obtain ⟨hrst, -⟩ := step_busy_inputs hr hrun.busy ht
    exact .inr ⟨⟨stepKeepsTheInvariant s t hs ht, hrst.trans hr, hrun', by omega, by omega⟩, hlt⟩

theorem Answered.ends (h : Answered s) : ∃ t, LeadsTo s t ∧ Ended t :=
  LeadsTo.of_measure stepsToEnd (fun _ => Answered.step) h

/-- The steps that follow the header answer `a` (R203): a conversion's, if its image is latched. -/
def stepsAfterHeader (s : State) : HdrAnswer → Nat
  | .hdr w h => stepsToEnd (latchImage w h s)
  | .formatErr | .ioErr => 0

/-- The answered `CHECK` step ends the operation, latches the image, or refuses its height (R203, R155). -/
theorem step_check_answered {a : HdrAnswer} {as : List HdrAnswer} (hr : s.rst = false) (hp : s.phase = .check)
    (ha : s.hdrAns = a :: as) :
    step s = .refused .heightNotRepresentable ∨
      ∃ t, step s = .next t ∧ (Ended t ∨ ∃ w h, a = .hdr w h ∧ t = latchImage w h { s with hdrAns := as }) := by
  rw [step_check hr hp, checkStep, srcHdr, ha]
  cases a with
  | formatErr | ioErr => exact .inr ⟨_, rfl, .inl (.inr rfl)⟩
  | hdr w h =>
    dsimp only [checkHeader]
    split
    · exact .inr ⟨_, rfl, .inr ⟨w, h, rfl, rfl⟩⟩
    · exact .inr ⟨_, rfl, .inl (.inr rfl)⟩
    · exact .inl rfl

/-- Settles O60: the number is the measure of the operation, in `CHECK` of the conversion that the header starts. -/
theorem everyAnsweredOperationEnds : Obligations.EveryAnsweredOperationEnds := by
  intro s hs hr hb hcheck
  have hs' (ps : List PxAnswer) (cs : List ChAnswer) : Inv { s with pxAns := ps, chAns := cs } :=
    hs.environmentMove rfl
  by_cases hp : s.phase = .check
  · obtain ⟨a, as, ha⟩ := List.exists_cons_of_ne_nil (hcheck hp)
    refine ⟨stepsAfterHeader s a + 1, fun ps cs hps hcs => ?_⟩
    obtain hstep | ⟨t, hstep, hend | ⟨w, h, rfl, rfl⟩⟩ :=
      step_check_answered (s := { s with pxAns := ps, chAns := cs }) hr hp ha
    · exact ⟨1, .inl (by rw [runSteps, hstep])⟩
    · exact ⟨1, .inr ⟨t, by rw [runSteps, hstep]; rfl, hend⟩⟩
    · have hstart : Answered (latchImage w h { s with hdrAns := as, pxAns := ps, chAns := cs }) :=
        ⟨stepKeepsTheInvariant _ _ (hs' ps cs) hstep, hr, .inl rfl, hps, hcs⟩
      obtain ⟨t, hrun, hend⟩ := hstart.ends
      obtain ⟨n, hn⟩ := hrun.head hstep
      exact ⟨n, .inr ⟨t, hn, hend⟩⟩
  · refine ⟨stepsToEnd s + 1, fun ps cs hps hcs => ?_⟩
    have hstart : Answered { s with pxAns := ps, chAns := cs } :=
      ⟨hs' ps cs, hr, running_of_busy hb hp, hps, hcs⟩
    obtain ⟨t, ⟨n, hn⟩, hend⟩ := hstart.ends
    exact ⟨n, .inr ⟨t, hn, hend⟩⟩

end

end Sys2Proof.Machine
end

section
/-! SUPPORT. When the machine waits (R341, R218): an unanswered step changes nothing, and any other takes an input or leaves
less of the operation. -/

namespace Sys2Proof.Machine

section

variable {s t : State}

/-- A step outside a running operation waits, or takes a request or a header. -/
theorem step_takes_input (hrun : ¬Running s) (hr : s.rst = false) (h : step s = .next t) :
    Waiting s ∨ t.reqs ≠ s.reqs ∨ t.hdrAns ≠ s.hdrAns := by
  have hquiet : s.busy = true → s.phase = .check := fun hb => by
    by_contra hp
    exact hrun (running_of_busy hb hp)
  cases step_cases h with
  | reset hrst => simp [hr] at hrst
  | waits _ hw => exact .inl hw
  | acceptEncode _ _ _ hq | acceptFrame _ _ _ hq =>
    right; left
    rw [hq]
    exact (List.cons_ne_self _ _).symm
  | headerRaises _ _ ha | headerPasses _ _ ha =>
    right; right
    rw [ha]
    exact (List.cons_ne_self _ _).symm
  | pixelRaises _ hp | pixel _ hp | clearPixel _ hp | replicates _ hp | paddingDone _ hp =>
    exact absurd (.inl (by rw [hp]; rfl)) hrun
  | sent _ hb | sendFails _ hb =>
    have hp := hquiet (busy_of_emitted hb)
    simp [emitted, hp] at hb

/-- Only a step that waits for an answer or a request leaves the state as it is: any other takes an input, or leaves less of
the operation. -/
theorem waiting_of_step_self (hs : Inv s) (hr : s.rst = false) (h : step s = .next s) : Waiting s := by
  by_cases hrun : Running s
  · obtain hw | hend | ⟨-, hlt⟩ := hrun.step hs hr h
    · exact hw
    · obtain hp | hp := hend <;> simp [Running, hp, Phase.converting] at hrun
    · exact absurd hlt (Nat.lt_irrefl _)
  · obtain hw | hne | hne := step_takes_input hrun hr h
    · exact hw
    · exact absurd rfl hne
    · exact absurd rfl hne

theorem chAns_of_waiting {b : Byte} (hb : emitted s = some b) (hw : Waiting s) : s.chAns = [] := by
  cases hp : s.phase with
  | idle | check | fill | repl | done | err => simp [emitted, hp] at hb
  | padout =>
    simp only [Waiting, hp] at hw
    exact hw.2
  | setup | hdr | data | trail | restore | frame => simpa only [Waiting, hp] using hw

/-- With no answer to its transaction, or no request, the machine waits (R341, R218). -/
theorem step_of_waiting (hs : Inv s) (hr : s.rst = false) (hw : Waiting s) : step s = .next s := by
  cases hb : s.busy with
  | false =>
    refine step_of_no_reqs hr hb ?_
    obtain hp | hp | hp := (busy_eq_false_iff s).1 hb <;> simpa only [Waiting, hp] using hw
  | true =>
    cases he : emitted s with
    | some b => rw [step_of_emitted hr he, chPut, chAns_of_waiting he hw, wait]
    | none =>
      obtain hp | hp | hp | ⟨hp, hk⟩ := silent_phases hb hs.config hs.ranges he <;> simp only [Waiting, hp] at hw
      · rw [step_check hr hp, checkStep, srcHdr, hw, wait]
      · obtain ⟨hy, ha⟩ := hw
        rw [step_fill hr hp, fillStep, if_pos hy, srcNext, ha, wait]
      · exact absurd hw.1 (Nat.not_lt.2 hk)

/-- Settles O46: what changes nothing neither takes an input nor brings the operation forward, so it waits; and a waiting
step has nothing to go on with. -/
theorem stepWaitsExactlyWhenUnanswered : Obligations.StepWaitsExactlyWhenUnanswered := fun _ hs hr =>
  ⟨waiting_of_step_self hs hr, step_of_waiting hs hr⟩

end

end Sys2Proof.Machine
end
